-- ==== Sys2Proof/Word.lean ====
section
/-! DEFINITION. The word types of the block: the byte, which is its only storage unit (R11, R70), and the 16-bit value a
2-byte immediate assembles to (R26, R77). -/

namespace Sys2Proof

/-- A byte, an unsigned integer in [0, 255] (R11). -/
abbrev Byte := BitVec 8

/-- A 16-bit unsigned value (R12, R26). -/
abbrev Half := BitVec 16

end Sys2Proof
end

