-- ==== Sys2Proof/Machine/Types.lean ====
section
/-! DEFINITION. The data types that cross the ports of the block (10_state.md section 2) and the Decoder Unit's stages
(R24). Types only: what is computed with them stands in Region, Operands, Tables, Header and Decode. -/

namespace Sys2Proof

/-! ### Decoder Unit -/

/-- The prefix sequence in force for the opcode byte (R24, R72). -/
inductive Ctx where
  | none | cb | ed | dd | fd | ddcb | fdcb
  deriving DecidableEq, Repr, Inhabited

/-- The five opcode tables (R9, R73). -/
inductive Table where
  | main | cb | ed | idx | idxcb
  deriving DecidableEq, Repr, Inhabited

/-- The two prefixes that select an index register and admit a second prefix (R24 `Prefix2`, R75). -/
inductive IdxPrefix where
  | dd | fd
  deriving DecidableEq, Repr, Inhabited

/-- The opaque identifier of an operation (R9); the source fixes none but the no-operation's (R84). -/
abbrev Name := String

/-- One entry of an opcode table (R9): the operation's name, its immediate width in bytes, and whether it addresses
relative to an index register. -/
structure Entry where
  name   : Name
  imm    : Fin 3
  idxrel : Bool
  deriving DecidableEq, Repr, Inhabited

/-- The immediate bytes of an instruction as they stand in the code stream: none, one, or two in stream order (R71). -/
inductive ImmBytes where
  | none
  | one (b : Byte)
  | two (lo hi : Byte)
  deriving DecidableEq, Repr, Inhabited

/-- The immediate of a decoded record (R26): a 2-byte immediate keeps its raw bytes beside its value. -/
inductive Imm where
  | imm0
  | imm8 (v : Byte)
  | imm16 (lo hi : Byte) (v : Half)
  deriving DecidableEq, Repr, Inhabited

/-- The record a successful decode returns (R26). -/
structure DecodedInstruction where
  ctx    : Ctx
  opcode : Byte
  name   : Name
  disp   : Option Int
  imm    : Imm
  length : Nat
  deriving DecidableEq, Repr, Inhabited

/-- The closed set of decode errors (R32), codes 1 to 7 of R200. -/
inductive DecodeError where
  /-- R201: the bytes `[start, stop)` were needed and `avail` were there. -/
  | regionOutOfBounds (start stop avail : Nat)
  /-- R202: the second byte after `DD` or `FD` is a prefix other than `CB`. -/
  | unknownPrefix (b : Byte)
  /-- R203: the active table has no entry for the opcode byte. -/
  | unknownOpcode (b : Byte) (ctx : Ctx)
  /-- R205 -/
  | unknownROMSize (b : Byte)
  /-- R206 -/
  | unknownRAMSize (b : Byte)
  /-- R207 -/
  | unknownComponents (b : Byte)
  /-- R208: raised by the strict constructor only. -/
  | badHeaderChecksum (computed stored : Byte)
  deriving DecidableEq, Repr, Inhabited

/-- The Decoder Unit's stages, each carrying only the data valid at that stage (R24). `pos` is the window index of the
next unconsumed byte. -/
inductive Stage where
  /-- R24 `Prefix`: nothing known. -/
  | start
  /-- R24 `Prefix2`: byte 0 was `p`, byte 1 is not yet examined. -/
  | prefix2 (p : IdxPrefix)
  /-- R24 `Opcode` -/
  | opcode (ctx : Ctx) (pos : Nat) (disp : Option Int)
  /-- R24 `Disp`: `op` is the opcode already read (contexts DD, FD), none when it follows (DDCB, FDCB). -/
  | disp (ctx : Ctx) (pos : Nat) (op : Option (Byte × Entry))
  /-- R24 `Imm` -/
  | imm (ctx : Ctx) (pos : Nat) (opb : Byte) (e : Entry) (disp : Option Int)
  /-- R24 `Done` -/
  | done (r : DecodedInstruction)
  /-- R24 `Failed` -/
  | failed (err : DecodeError)
  deriving DecidableEq, Repr, Inhabited

/-! ### Regions -/

/-- The shape of the value a region denotes (R28). -/
inductive RegionKind where
  | byte
  | word
  | array (n : Nat)
  deriving DecidableEq, Repr, Inhabited

/-- A typed half-open byte range `[start, stop)` (R28). -/
structure Region where
  start : Nat
  stop  : Nat
  kind  : RegionKind
  deriving DecidableEq, Repr, Inhabited

/-! ### Header Unit -/

/-- The ten ROM capacity classes (R30, R90). -/
inductive RomCapacity where
  | rom32K | rom64K | rom128K | rom256K | rom512K | rom1M | rom2M | rom72B | rom80B | rom96B
  deriving DecidableEq, Repr, Inhabited

/-- The five RAM capacity classes (R31, R91). -/
inductive RamCapacity where
  | ramNone | ram2K | ram8K | ram32K | ram128K
  deriving DecidableEq, Repr, Inhabited

/-- The memory bank controller kinds, the closed set 1, 2, 3, 5 (R27). -/
inductive MbcKind where
  | mbc1 | mbc2 | mbc3 | mbc5
  deriving DecidableEq, Repr, Inhabited

/-- A component without its capacity payload, as the component table lists it (R27). -/
inductive ComponentTag where
  | rom
  | mbc (kind : MbcKind)
  | battery
  | memoryManagementModule
  | ram
  | staticRAM
  | timer
  | rumble
  | pocketCamera
  | vendorA
  | vendorB
  deriving DecidableEq, Repr, Inhabited

/-- A cartridge component; `ROM` and `RAM` carry their capacity (R27, R126). -/
inductive Component where
  | rom (cap : RomCapacity)
  | mbc (kind : MbcKind)
  | battery
  | memoryManagementModule
  | ram (cap : RamCapacity)
  | staticRAM
  | timer
  | rumble
  | pocketCamera
  | vendorA
  | vendorB
  deriving DecidableEq, Repr, Inhabited

/-- A sequence of Unicode scalar values (R29): a Lean `Char` is one. -/
abbrev Text := List Char

/-- The cartridge header (R29), with the block's only flags, its three Booleans (R38). -/
structure CartridgeHeader where
  title            : Text
  components       : List Component
  romCapacity      : RomCapacity
  ramCapacity      : RamCapacity
  isColorMode      : Bool
  isSuperMode      : Bool
  headerChecksumOk : Bool
  deriving DecidableEq, Repr, Inhabited

/-- The two constructors, the source's `new` and `new_no_check` (R34). -/
inductive Mode where
  | strict | lenient
  deriving DecidableEq, Repr, Inhabited

end Sys2Proof
end

