-- ==== Sys2Proof/Machine/Region.lean ====
section
/-! DEFINITION. Region extraction, the block's only memory-read primitive, and the explicit conversions of an extracted
slice (40_region.md). Both units use them: the Header Unit over the ROM Store's bytes, the Decoder Unit over its
window. There is no other way to read a byte (R12, R105). -/

namespace Sys2Proof

/-- The number of bytes a value of a kind occupies (R28). -/
def RegionKind.size : RegionKind → Nat
  | .byte => 1
  | .word => 2
  | .array n => n

/-- The invariant that ties a region's bounds to its kind (R28). -/
def Region.wf (r : Region) : Bool := r.stop == r.start + r.kind.size

/-- `extract(region, buf)` (R100): the whole range, or a bounds error, also where `start > stop` (R101). -/
def extract (r : Region) (buf : List Byte) : Except DecodeError (List Byte) :=
  if r.stop < r.start ∨ buf.length < r.stop then
    .error (.regionOutOfBounds r.start r.stop buf.length)
  else
    .ok ((buf.drop r.start).take (r.stop - r.start))

/-- `to_u8` (R102). -/
def toU8 (s : List Byte) : Except DecodeError Byte :=
  match s with
  | [b] => .ok b
  | _ => .error (.regionOutOfBounds 0 1 s.length)

/-- `u16_le(lo, hi) = lo + 256 × hi` (R12). -/
def u16le (lo hi : Byte) : Half := BitVec.ofNat 16 (lo.toNat + 256 * hi.toNat)

/-- `u16_be(hi, lo) = 256 × hi + lo` (R12). -/
def u16be (hi lo : Byte) : Half := BitVec.ofNat 16 (256 * hi.toNat + lo.toNat)

/-- `to_u16_le` (R103). -/
def toU16le (s : List Byte) : Except DecodeError Half :=
  match s with
  | [a, b] => .ok (u16le a b)
  | _ => .error (.regionOutOfBounds 0 2 s.length)

/-- `to_u16_be` (R103). -/
def toU16be (s : List Byte) : Except DecodeError Half :=
  match s with
  | [a, b] => .ok (u16be a b)
  | _ => .error (.regionOutOfBounds 0 2 s.length)

/-- `to_array_N` (R104): the slice's bytes, order kept, once their number is validated. -/
def toArray (n : Nat) (s : List Byte) : Except DecodeError (List Byte) :=
  if s.length = n then .ok s else .error (.regionOutOfBounds 0 n s.length)

/-- The single byte at index `i` of a buffer: `to_u8(extract((i, i+1, Byte), buf))` (R162). -/
def byteAt (buf : List Byte) (i : Nat) : Except DecodeError Byte :=
  match extract ⟨i, i + 1, .byte⟩ buf with
  | .ok s => toU8 s
  | .error e => .error e

end Sys2Proof
end

