-- ==== Sys2Proof/Config.lean ====
section
/-! DEFINITION. What is fixed for the machine: the constants of R8, and the two open parameters OPTABLE (R9) and
COMPONENT_TABLE (R10) as plain data, with the opaque constant that stands for the values the source does not give. -/

namespace Sys2Proof

/-! ### Constants of R8 -/

/-- Most bytes the Decoder Unit reads per decode (R8, R170). -/
def Config.windowMax : Nat := 4

/-- Shortest instruction (R8). -/
def Config.lenMin : Nat := 1

/-- Longest instruction (R8). -/
def Config.lenMax : Nat := 4

/-- Bytes per ROM bank (R8, R30). -/
def Config.bankSize : Nat := 16384

/-- Smallest ROM length for which a header can be constructed (R8). -/
def Config.headerEnd : Nat := 0x14E

/-! ### Parameters -/

/-- OPTABLE (R9) as plain data: for each of the five tables one optional entry per byte value. R85 and R86 leave only
the NAMES of `CB 00` and `DD 09` open, and R84 leaves nothing of `00` open: those three entries are what
`OpTable.lookup` says they are for every value of this type, so the slots main[0], cb[0] and idx[9] are never read.
The remaining constraints R81 to R83 are checked by `OpTable.wf` (log 4, DESIGN CHOICE). -/
structure OpTable where
  cb00Name  : Name
  idx09Name : Name
  main  : Vector (Option Entry) 256
  cb    : Vector (Option Entry) 256
  ed    : Vector (Option Entry) 256
  idx   : Vector (Option Entry) 256
  idxcb : Vector (Option Entry) 256
  deriving DecidableEq, Repr, Inhabited

/-- COMPONENT_TABLE (R10) as plain data. R93 (a) to (c) leave open which ONE code besides `0x15` of the 35 candidates
is outside the domain, and R94 fixes the list of `0x03`. So the table is the position of the missing code among the 33
open candidates (`ComponentTable.candidates`) and one tag list per candidate; the missing candidate's list is never
read (log 5, DESIGN CHOICE). -/
structure ComponentTable where
  missing : Fin 33
  lists   : Vector (List ComponentTag) 33
  deriving DecidableEq, Repr, Inhabited

/-- The two parameters the spec calls OPEN (R8). -/
structure Params where
  optable    : OpTable
  components : ComponentTable
  deriving DecidableEq, Repr, Inhabited

/-- The tables of the machine at hand, which no source gives (R9, R10, D9, D10): no proof can see what they are, so
what is proved of a run from reset holds for every value of them (log 4, log 5). -/
opaque Config.params : Params

end Sys2Proof
end

