-- ==== Sys2Proof/Machine/Tables.lean ====
section
/-! DEFINITION. Reading the tables: OPTABLE with its constraints (R81 to R86), COMPONENT_TABLE (R93, R94), and the
capacity code tables (R90, R91) with their inverses (R141). -/

namespace Sys2Proof

/-! ### Prefixes and contexts -/

/-- The four prefix values (R8, R74). -/
def isPrefixByte (b : Byte) : Bool := b == 0xCB || b == 0xDD || b == 0xED || b == 0xFD

/-- The prefix values that may not follow `DD` or `FD` (R75, R180). -/
def isBadSecondPrefix (b : Byte) : Bool := b == 0xDD || b == 0xED || b == 0xFD

/-- The table consulted for the opcode byte of a context (R73). -/
def Ctx.table : Ctx → Table
  | .none => .main
  | .cb => .cb
  | .ed => .ed
  | .dd => .idx
  | .fd => .idx
  | .ddcb => .idxcb
  | .fdcb => .idxcb

/-- The number of prefix bytes of a context (R72, R78 `npfx`). -/
def Ctx.prefixCount : Ctx → Nat
  | .none => 0
  | .cb => 1
  | .ed => 1
  | .dd => 1
  | .fd => 1
  | .ddcb => 2
  | .fdcb => 2

/-- The prefix byte itself (R72). -/
def IdxPrefix.byte : IdxPrefix → Byte
  | .dd => 0xDD
  | .fd => 0xFD

/-- The context a single `DD` or `FD` puts in force (R72). -/
def IdxPrefix.ctx : IdxPrefix → Ctx
  | .dd => .dd
  | .fd => .fd

/-- The context of `DD CB` and `FD CB` (R72, R164). -/
def IdxPrefix.ctxCB : IdxPrefix → Ctx
  | .dd => .ddcb
  | .fd => .fdcb

/-! ### OPTABLE -/

/-- The name the source gives the no-operation (R84). -/
def nopName : Name := "NOP"

/-- The entries of one table as the parameter lists them. -/
def OpTable.rows (T : OpTable) : Table → Vector (Option Entry) 256
  | .main => T.main
  | .cb => T.cb
  | .ed => T.ed
  | .idx => T.idx
  | .idxcb => T.idxcb

/-- The entry in force at a key whose listed entry is `listed`: R84, R85 and R86 fix three entries, every other key has
the listed one. -/
def OpTable.entryAt (T : OpTable) (t : Table) (b : Byte) (listed : Option Entry) : Option Entry :=
  if t = .main ∧ b = 0x00 then some { name := nopName, imm := 0, idxrel := false }
  else if t = .cb ∧ b = 0x00 then some { name := T.cb00Name, imm := 0, idxrel := false }
  else if t = .idx ∧ b = 0x09 then some { name := T.idx09Name, imm := 0, idxrel := false }
  else listed

/-- `OPTABLE(t, b)` (R9): none means the active table has no entry there. -/
def OpTable.lookup (T : OpTable) (t : Table) (b : Byte) : Option Entry :=
  T.entryAt t b ((T.rows t)[b.toNat]'b.isLt)

/-- R81, R82 and R83 of one entry: `idxrel` only in IDX; the width bounds that keep an instruction within 4 bytes; no
entry at the prefix bytes of MAIN and IDX. -/
def entryOk (t : Table) (b : Byte) : Option Entry → Bool
  | none => true
  | some e =>
    match t with
    | .main => !e.idxrel && !isPrefixByte b
    | .cb => !e.idxrel
    | .ed => !e.idxrel
    | .idx => (!e.idxrel || decide (e.imm.val ≤ 1)) && !isPrefixByte b
    | .idxcb => !e.idxrel && decide (e.imm.val = 0)

/-- R81 to R83 of one table: every byte's entry in force is allowed. -/
def OpTable.tableOk (T : OpTable) (t : Table) : Bool :=
  (T.rows t).toList.zipIdx.all fun p =>
    entryOk t (BitVec.ofNat 8 p.2) (T.entryAt t (BitVec.ofNat 8 p.2) p.1)

/-- The well-formedness check a decode makes of OPTABLE (R81 to R83, R210 `BadTable`). -/
def OpTable.wf (T : OpTable) : Bool :=
  T.tableOk .main && T.tableOk .cb && T.tableOk .ed && T.tableOk .idx && T.tableOk .idxcb

/-! ### COMPONENT_TABLE -/

/-- The codes that R93 leaves open: the 35 codes `0x00` to `0x1F` and `0xFD` to `0xFF`, without `0x15`, which is
outside the domain, and without `0x03`, whose list R94 gives. -/
def ComponentTable.candidates : List Byte :=
  [0x00, 0x01, 0x02, 0x04, 0x05, 0x06, 0x07, 0x08, 0x09, 0x0A, 0x0B, 0x0C, 0x0D, 0x0E, 0x0F, 0x10, 0x11,
   0x12, 0x13, 0x14, 0x16, 0x17, 0x18, 0x19, 0x1A, 0x1B, 0x1C, 0x1D, 0x1E, 0x1F, 0xFD, 0xFE, 0xFF]

/-- The component list of code `0x03`, the one entry the source gives (R94). -/
def ComponentTable.code03 : List ComponentTag := [.rom, .mbc .mbc1, .ram, .battery]

/-- `COMPONENT_TABLE(b)` (R10, R93, R94): none for a byte outside the domain. -/
def ComponentTable.lookup (C : ComponentTable) (b : Byte) : Option (List ComponentTag) :=
  if b = 0x03 then some ComponentTable.code03
  else
    match ComponentTable.candidates.findIdx? (· == b) with
    | none => none
    | some k => if k = C.missing.val then none else C.lists.toList[k]?

/-! ### Capacity codes -/

/-- ROM_TABLE (R90): the capacity class of a code byte; none for an unmapped byte. -/
def RomCapacity.ofCode (b : Byte) : Option RomCapacity :=
  if b = 0x00 then some .rom32K
  else if b = 0x01 then some .rom64K
  else if b = 0x02 then some .rom128K
  else if b = 0x03 then some .rom256K
  else if b = 0x04 then some .rom512K
  else if b = 0x05 then some .rom1M
  else if b = 0x06 then some .rom2M
  else if b = 0x52 then some .rom72B
  else if b = 0x53 then some .rom80B
  else if b = 0x54 then some .rom96B
  else none

/-- The code byte of a ROM capacity (R90, R141). -/
def RomCapacity.code : RomCapacity → Byte
  | .rom32K => 0x00
  | .rom64K => 0x01
  | .rom128K => 0x02
  | .rom256K => 0x03
  | .rom512K => 0x04
  | .rom1M => 0x05
  | .rom2M => 0x06
  | .rom72B => 0x52
  | .rom80B => 0x53
  | .rom96B => 0x54

/-- The bank count of a ROM capacity (R90). -/
def RomCapacity.banks : RomCapacity → Nat
  | .rom32K => 2
  | .rom64K => 4
  | .rom128K => 8
  | .rom256K => 16
  | .rom512K => 32
  | .rom1M => 64
  | .rom2M => 128
  | .rom72B => 72
  | .rom80B => 80
  | .rom96B => 96

/-- The exact byte count of a ROM capacity: banks × 16384 (R30, R90). -/
def RomCapacity.bytes (c : RomCapacity) : Nat := c.banks * Config.bankSize

/-- RAM_TABLE (R91): the capacity class of a code byte; none for an unmapped byte. -/
def RamCapacity.ofCode (b : Byte) : Option RamCapacity :=
  if b = 0x00 then some .ramNone
  else if b = 0x01 then some .ram2K
  else if b = 0x02 then some .ram8K
  else if b = 0x03 then some .ram32K
  else if b = 0x04 then some .ram128K
  else none

/-- The code byte of a RAM capacity (R91, R141). -/
def RamCapacity.code : RamCapacity → Byte
  | .ramNone => 0x00
  | .ram2K => 0x01
  | .ram8K => 0x02
  | .ram32K => 0x03
  | .ram128K => 0x04

/-- The exact byte count of a RAM capacity (R91). -/
def RamCapacity.bytes : RamCapacity → Nat
  | .ramNone => 0
  | .ram2K => 2048
  | .ram8K => 8192
  | .ram32K => 32768
  | .ram128K => 131072

/-! ### Error codes -/

/-- The numeric code of a decode error (R200). -/
def DecodeError.code : DecodeError → Nat
  | .regionOutOfBounds _ _ _ => 1
  | .unknownPrefix _ => 2
  | .unknownOpcode _ _ => 3
  | .unknownROMSize _ => 4
  | .unknownRAMSize _ => 5
  | .unknownComponents _ => 6
  | .badHeaderChecksum _ _ => 7

/-- The code of the LOAD port's separate I/O error (R200, R209). -/
def ioErrorCode : Nat := 8

end Sys2Proof
end

