-- ==== Sys2Proof/Machine/Operands.lean ====
section
/-! DEFINITION. The operand forms of an instruction: the signed displacement (R76), the immediate of 0, 1 or 2 bytes
(R77), the length they add up to (R78), and the listing of a decoded record (R88). -/

namespace Sys2Proof

/-- `sext_8(b)`: an integer in [-128, 127] (R12, R76). -/
def sext8 (b : Byte) : Int := if b.toNat < 128 then (b.toNat : Int) else (b.toNat : Int) - 256

/-- `zext_16(b)` (R12). -/
def zext16 (b : Byte) : Half := BitVec.ofNat 16 b.toNat

/-- The displacement byte of a displacement in [-128, 127]: the inverse of `sext8`. -/
def dispByte (d : Int) : Byte := BitVec.ofInt 8 d

/-- The number of bytes an immediate occupies in the code stream. -/
def ImmBytes.width : ImmBytes → Nat
  | .none => 0
  | .one _ => 1
  | .two _ _ => 2

/-- The bytes of an immediate in stream order. -/
def ImmBytes.bytes : ImmBytes → List Byte
  | .none => []
  | .one b => [b]
  | .two lo hi => [lo, hi]

/-- The width of a record's immediate in bytes. -/
def Imm.width : Imm → Nat
  | .imm0 => 0
  | .imm8 _ => 1
  | .imm16 _ _ _ => 2

/-- The bytes a record's immediate was read from; a 2-byte immediate keeps them (R26). -/
def Imm.toBytes : Imm → ImmBytes
  | .imm0 => .none
  | .imm8 v => .one v
  | .imm16 lo hi _ => .two lo hi

/-- Immediate assembly (R77): one byte is the unsigned byte, two bytes are little-endian. -/
def assembleImm : List Byte → Imm
  | [] => .imm0
  | [b] => .imm8 b
  | lo :: hi :: _ => .imm16 lo hi (u16le lo hi)

/-- The immediate of width `k` at index `pos` of a window, read as one region (R167). -/
def immAt (w : List Byte) (pos : Nat) (k : Fin 3) : Except DecodeError Imm :=
  match extract ⟨pos, pos + k.val, .array k.val⟩ w with
  | .ok s => .ok (assembleImm s)
  | .error e => .error e

/-- The displacement at index `i` of a window (R166). -/
def dispAt (w : List Byte) (i : Nat) : Except DecodeError Int :=
  match byteAt w i with
  | .ok b => .ok (sext8 b)
  | .error e => .error e

/-- `OPTABLE(table(ctx), b)` or `UnknownOpcode(b, ctx)` (R165, R203). -/
def entryFor (T : OpTable) (ctx : Ctx) (b : Byte) : Except DecodeError Entry :=
  match T.lookup ctx.table b with
  | some e => .ok e
  | none => .error (.unknownOpcode b ctx)

/-- The length a record must report: 1 + prefix bytes + displacement + immediate width (R78, R168). -/
def DecodedInstruction.lengthBySum (r : DecodedInstruction) : Nat :=
  1 + r.ctx.prefixCount + (if r.disp.isSome then 1 else 0) + r.imm.width

/-! ### Listing (R88) -/

/-- One hexadecimal digit, upper case (log 15, DESIGN CHOICE). -/
def hexDigit (n : Nat) : Char := (Nat.digitChar n).toUpper

/-- A number as `k` hexadecimal digits. -/
def hexDigits : Nat → Nat → List Char
  | 0, _ => []
  | k + 1, n => hexDigits k (n / 16) ++ [hexDigit (n % 16)]

/-- The `<CTX>:` part of a listing, omitted for NONE (R88). -/
def Ctx.listing : Ctx → String
  | .none => ""
  | .cb => "CB:"
  | .ed => "ED:"
  | .dd => "DD:"
  | .fd => "FD:"
  | .ddcb => "DDCB:"
  | .fdcb => "FDCB:"

/-- The immediate part of a listing: 2 hex digits, or 4 of the value `v` (R88). -/
def Imm.listing : Imm → String
  | .imm0 => ""
  | .imm8 v => " #0x" ++ String.ofList (hexDigits 2 v.toNat)
  | .imm16 _ _ v => " #0x" ++ String.ofList (hexDigits 4 v.toNat)

/-- The displacement part of a listing, signed decimal (R88). -/
def dispListing : Option Int → String
  | none => ""
  | some d => " d=" ++ toString d

/-- The listing of a decoded record (R88):
`<CTX>:<opcode> [d=<disp>] [#0x<imm>] ; <name> (<length>)`. -/
def DecodedInstruction.listing (r : DecodedInstruction) : String :=
  r.ctx.listing ++ String.ofList (hexDigits 2 r.opcode.toNat) ++ dispListing r.disp ++ r.imm.listing
    ++ " ; " ++ r.name ++ " (" ++ toString r.length ++ ")"

end Sys2Proof
end

