-- ==== Sys2Proof/Machine/Forms.lean ====
section
/-! DEFINITION. The instruction forms, one function per form rule R171 to R176: the pseudocode of that rule over a
window that begins with the form's prefix bytes. The meanings of the instructions call them; the Decoder Unit's stage
machine (R162) is written apart, in Decode.lean, and that the two agree is a statement. -/

namespace Sys2Proof

/-- F-MAIN (R171). -/
def formMain (T : OpTable) (w : List Byte) : Except DecodeError DecodedInstruction := do
  let ob ← byteAt w 0
  let e ← entryFor T .none ob
  let imm ← immAt w 1 e.imm
  return { ctx := .none, opcode := ob, name := e.name, disp := none, imm := imm, length := 1 + e.imm.val }

/-- F-CB (R172). -/
def formCb (T : OpTable) (w : List Byte) : Except DecodeError DecodedInstruction := do
  let ob ← byteAt w 1
  let e ← entryFor T .cb ob
  let imm ← immAt w 2 e.imm
  return { ctx := .cb, opcode := ob, name := e.name, disp := none, imm := imm, length := 2 + e.imm.val }

/-- F-ED (R173). -/
def formEd (T : OpTable) (w : List Byte) : Except DecodeError DecodedInstruction := do
  let ob ← byteAt w 1
  let e ← entryFor T .ed ob
  let imm ← immAt w 2 e.imm
  return { ctx := .ed, opcode := ob, name := e.name, disp := none, imm := imm, length := 2 + e.imm.val }

/-- F-IDX (R174), entry with `idxrel = false`. -/
def formIdx (T : OpTable) (p : IdxPrefix) (w : List Byte) : Except DecodeError DecodedInstruction := do
  let ob ← byteAt w 1
  let e ← entryFor T p.ctx ob
  let imm ← immAt w 2 e.imm
  return { ctx := p.ctx, opcode := ob, name := e.name, disp := none, imm := imm, length := 2 + e.imm.val }

/-- F-IDXD (R175), entry with `idxrel = true`: the displacement follows the opcode. -/
def formIdxD (T : OpTable) (p : IdxPrefix) (w : List Byte) : Except DecodeError DecodedInstruction := do
  let ob ← byteAt w 1
  let e ← entryFor T p.ctx ob
  let d ← dispAt w 2
  let imm ← immAt w 3 e.imm
  return { ctx := p.ctx, opcode := ob, name := e.name, disp := some d, imm := imm, length := 3 + e.imm.val }

/-- F-IDXCB (R176): the displacement precedes the opcode, and there is no immediate. -/
def formIdxCb (T : OpTable) (p : IdxPrefix) (w : List Byte) : Except DecodeError DecodedInstruction := do
  let d ← dispAt w 2
  let ob ← byteAt w 3
  let e ← entryFor T p.ctxCB ob
  return { ctx := p.ctxCB, opcode := ob, name := e.name, disp := some d, imm := .imm0, length := 4 }

/-- The form a window spells, told from byte 0, from byte 1 after `DD` or `FD`, and from the IDX entry's `idxrel`
(R74, R75, R79), and that form's response. An IDX opcode byte without an entry fails in either IDX form. -/
def formDecode (T : OpTable) (w : List Byte) : Except DecodeError DecodedInstruction := do
  let b0 ← byteAt w 0
  if b0 = 0xCB then formCb T w
  else if b0 = 0xED then formEd T w
  else if b0 = 0xDD ∨ b0 = 0xFD then
    let p : IdxPrefix := if b0 = 0xDD then .dd else .fd
    let b1 ← byteAt w 1
    if b1 = 0xCB then formIdxCb T p w
    else if isBadSecondPrefix b1 then .error (.unknownPrefix b1)
    else
      let e ← entryFor T p.ctx b1
      if e.idxrel then formIdxD T p w else formIdx T p w
  else formMain T w

end Sys2Proof
end

