-- ==== Sys2Proof/Syntax.lean ====
section
/-! DEFINITION. The instructions: one constructor per row of opcode_table.json, its operands the row's fields as the
bytes that stand in the code stream. The operation's name is no field of the encoding; it is looked up in OPTABLE by
the instruction's meaning (R9). -/

namespace Sys2Proof

/-- The instructions the block decodes, by row of opcode_table.json. `NOP`, `CB 00` and `DD 09` are rows of their own
beside the forms they are cases of, and the illegal second prefix is a row too (log 11, DESIGN CHOICE). -/
inductive Instr where
  /-- F-MAIN (R171): opcode, immediate. -/
  | main (op : Byte) (imm : ImmBytes)
  /-- F-CB (R172). -/
  | cb (op : Byte) (imm : ImmBytes)
  /-- F-ED (R173). -/
  | ed (op : Byte) (imm : ImmBytes)
  /-- F-IDX under `DD` (R174). -/
  | dd (op : Byte) (imm : ImmBytes)
  /-- F-IDX under `FD` (R174). -/
  | fd (op : Byte) (imm : ImmBytes)
  /-- F-IDXD under `DD` (R175): opcode, displacement byte, immediate. -/
  | ddIdx (op d : Byte) (imm : ImmBytes)
  /-- F-IDXD under `FD` (R175). -/
  | fdIdx (op d : Byte) (imm : ImmBytes)
  /-- F-IDXCB under `DD CB` (R176): displacement byte, opcode. -/
  | ddcb (d op : Byte)
  /-- F-IDXCB under `FD CB` (R176). -/
  | fdcb (d op : Byte)
  /-- `00` (R177). -/
  | nop
  /-- `CB 00` (R178). -/
  | cb00
  /-- `DD 09` (R179). -/
  | dd09
  /-- `DD` or `FD` followed by `DD`, `ED` or `FD` (R180). -/
  | unknownPrefix (p : IdxPrefix) (q : Byte)
  deriving DecidableEq, Repr, Inhabited

end Sys2Proof
end

