-- ==== Sys2Proof/WellFormed.lean ====
section
/-! DEFINITION. When an instruction is one that the machine's OPTABLE admits: its opcode byte has an entry in the form's
table, of the form's kind and of the immediate's width, and it is spelt by the one constructor its bytes decode to. -/

namespace Sys2Proof

/-- The table has an entry at `b` with this `idxrel` and with the width of this immediate (R71, R77). -/
def OpTable.fits (T : OpTable) (t : Table) (b : Byte) (idxrel : Bool) (imm : ImmBytes) : Bool :=
  match T.lookup t b with
  | some e => e.idxrel == idxrel && e.imm.val == imm.width
  | none => false

/-- Well-formedness of an instruction under a table. `00`, `CB 00` and `DD 09` are spelt by constructors of their own;
an unprefixed or index opcode is no prefix byte (R71 conditions); a second prefix that is not known is one of R180. -/
def Instr.wf (T : OpTable) : Instr → Bool
  | .main op imm => !isPrefixByte op && op != 0x00 && T.fits .main op false imm
  | .cb op imm => op != 0x00 && T.fits .cb op false imm
  | .ed op imm => T.fits .ed op false imm
  | .dd op imm => !isPrefixByte op && op != 0x09 && T.fits .idx op false imm
  | .fd op imm => !isPrefixByte op && T.fits .idx op false imm
  | .ddIdx op _ imm => !isPrefixByte op && T.fits .idx op true imm
  | .fdIdx op _ imm => !isPrefixByte op && T.fits .idx op true imm
  | .ddcb _ op => T.fits .idxcb op false .none
  | .fdcb _ op => T.fits .idxcb op false .none
  | .nop => true
  | .cb00 => true
  | .dd09 => true
  | .unknownPrefix _ q => isBadSecondPrefix q

end Sys2Proof
end

