-- ==== Sys2Proof/Decode.lean ====
section
/-! DEFINITION. The Decoder Unit: the stage machine of R162, the DECODE function it computes (R160), the instruction a
window spells, and the encoder written from the same formats (R71). -/

namespace Sys2Proof

/-- The stage a read leads to, or `Failed` with the error of the read (R169). -/
def Stage.orFail {α : Type} (x : Except DecodeError α) (k : α → Stage) : Stage :=
  match x with
  | .ok a => k a
  | .error e => .failed e

/-- The stage transition `next(st, w)` (R162). -/
def Stage.next (T : OpTable) (w : List Byte) : Stage → Stage
  | .start =>
    .orFail (byteAt w 0) fun b0 =>
      if b0 = 0xCB then .opcode .cb 1 none
      else if b0 = 0xED then .opcode .ed 1 none
      else if b0 = 0xDD then .prefix2 .dd
      else if b0 = 0xFD then .prefix2 .fd
      else .opcode .none 0 none
  | .prefix2 p =>
    .orFail (byteAt w 1) fun b1 =>
      if b1 = 0xCB then .disp p.ctxCB 2 none
      else if isBadSecondPrefix b1 then .failed (.unknownPrefix b1)
      else .opcode p.ctx 1 none
  | .opcode ctx pos d =>
    .orFail (byteAt w pos) fun ob =>
      .orFail (entryFor T ctx ob) fun e =>
        if (ctx = .dd ∨ ctx = .fd) ∧ e.idxrel = true then .disp ctx (pos + 1) (some (ob, e))
        else .imm ctx (pos + 1) ob e d
  | .disp ctx pos op =>
    .orFail (dispAt w pos) fun d =>
      match op with
      | none => .opcode ctx (pos + 1) (some d)
      | some (ob, e) => .imm ctx (pos + 1) ob e (some d)
  | .imm ctx pos ob e d =>
    .orFail (immAt w pos e.imm) fun imm =>
      .done { ctx := ctx, opcode := ob, name := e.name, disp := d, imm := imm, length := pos + e.imm.val }
  | .done r => .done r
  | .failed e => .failed e

/-- `k` stage transitions. -/
def Stage.run (T : OpTable) (w : List Byte) : Nat → Stage → Stage
  | 0, st => st
  | k + 1, st => Stage.run T w k (st.next T w)

/-- The most transitions a decode takes (R161). -/
def Stage.maxTransitions : Nat := 5

/-- The window index of the next unconsumed byte (R24). -/
def Stage.pos : Stage → Nat
  | .start => 0
  | .prefix2 _ => 1
  | .opcode _ pos _ => pos
  | .disp _ pos _ => pos
  | .imm _ pos _ _ _ => pos
  | .done r => r.length
  | .failed _ => 0

/-- The response of a stage (R160). A stage that has not ended asks for the byte at its position, which the DECODE
transaction turns into a bounds failure (R162, R169); after `Stage.maxTransitions` transitions there is none such (R161). -/
def Stage.response (w : List Byte) : Stage → Except DecodeError DecodedInstruction
  | .done r => .ok r
  | .failed e => .error e
  | st => .error (.regionOutOfBounds st.pos (st.pos + 1) w.length)

/-- `DECODE(w)` (R160): run the stages from `Prefix`, whatever was decoded before (R25). -/
def decodeWindow (T : OpTable) (w : List Byte) : Except DecodeError DecodedInstruction :=
  (Stage.run T w Stage.maxTransitions .start).response w

/-- The instruction a decoded record is of (R72; `00`, `CB 00` and `DD 09` are rows of their own, log 11). -/
def Instr.ofRecord (r : DecodedInstruction) : Instr :=
  match r.ctx with
  | .none => if r.opcode = 0x00 then .nop else .main r.opcode r.imm.toBytes
  | .cb => if r.opcode = 0x00 then .cb00 else .cb r.opcode r.imm.toBytes
  | .ed => .ed r.opcode r.imm.toBytes
  | .dd =>
    match r.disp with
    | some d => .ddIdx r.opcode (dispByte d) r.imm.toBytes
    | none => if r.opcode = 0x09 then .dd09 else .dd r.opcode r.imm.toBytes
  | .fd =>
    match r.disp with
    | some d => .fdIdx r.opcode (dispByte d) r.imm.toBytes
    | none => .fd r.opcode r.imm.toBytes
  | .ddcb => .ddcb (dispByte (r.disp.getD 0)) r.opcode
  | .fdcb => .fdcb (dispByte (r.disp.getD 0)) r.opcode

/-- The instruction a window spells, or the error that says why it spells none (R87). The illegal second prefix is a
row of the opcode table, so it is an instruction here, whose meaning is its error (R180). -/
def decode (T : OpTable) (w : List Byte) : Except DecodeError Instr :=
  match decodeWindow T w with
  | .ok r => .ok (Instr.ofRecord r)
  | .error (.unknownPrefix q) => .ok (.unknownPrefix (if w.head? = some 0xFD then .fd else .dd) q)
  | .error e => .error e

/-! ### Encoder -/

/-- The bytes of an instruction in stream order (R71). -/
def encode : Instr → List Byte
  | .main op imm => op :: imm.bytes
  | .cb op imm => 0xCB :: op :: imm.bytes
  | .ed op imm => 0xED :: op :: imm.bytes
  | .dd op imm => 0xDD :: op :: imm.bytes
  | .fd op imm => 0xFD :: op :: imm.bytes
  | .ddIdx op d imm => 0xDD :: op :: d :: imm.bytes
  | .fdIdx op d imm => 0xFD :: op :: d :: imm.bytes
  | .ddcb d op => [0xDD, 0xCB, d, op]
  | .fdcb d op => [0xFD, 0xCB, d, op]
  | .nop => [0x00]
  | .cb00 => [0xCB, 0x00]
  | .dd09 => [0xDD, 0x09]
  | .unknownPrefix p q => [p.byte, q]

/-! ### The host's words -/

/-- An admissible OPTABLE in which every byte that may have an entry has one, index-relative at the two bytes where the
spec's TEST_TABLE is (95_test_vectors.md section 1). The host's probe words are decoded under it, since the machine's
own table is open; no rule and no meaning depends on it (log 10, DESIGN CHOICE). -/
def OpTable.probe : OpTable :=
  let e : Option Entry := some { name := "probe", imm := 0, idxrel := false }
  let x : Option Entry := some { name := "probe", imm := 0, idxrel := true }
  let all : Vector (Option Entry) 256 := Vector.replicate 256 e
  let noPrefix := (((all.set 0xCB none).set 0xDD none).set 0xED none).set 0xFD none
  { cb00Name := "probe", idx09Name := "probe", main := noPrefix, cb := all, ed := all,
    idx := (noPrefix.set 0x36 x).set 0x7E x, idxcb := all }

/-- `k` bytes of a number, the most significant first. -/
def bytesOfWord : Nat → Nat → List Byte
  | 0, _ => []
  | k + 1, w => bytesOfWord k (w / 256) ++ [BitVec.ofNat 8 w]

/-- The code stream of a word of opcode_table.json: its most significant byte is the first in stream order (the table's
match of row CB is `0xCB00`), and what the instruction has beyond the table's bits is zero (log 10). -/
def tableWordBytes (nbits w : Nat) : List Byte :=
  bytesOfWord (nbits / 8) w ++ List.replicate (Config.windowMax - nbits / 8) 0x00

/-- The instruction the decoder reads from a word of opcode_table.json. -/
def decodeTableWord (nbits w : Nat) : Option Instr :=
  match decode OpTable.probe (tableWordBytes nbits w) with
  | .ok i => some i
  | .error _ => none

end Sys2Proof
end

