-- ==== Sys2Proof/Machine/State.lean ====
section
/-! DEFINITION. The state of the block and of the two agents at its boundary, as plain data; the reasons a step can
stop; and the state after reset (10_state.md, 60_exceptions.md R210, 70_reset_and_hazards.md). -/

namespace Sys2Proof.Machine

/-- The ROM Store's bytes as cells (address, byte), with the addresses exactly 0 to L_ROM − 1 in order (R21, R40,
`Memory.wf`). An address that is not listed does not exist, so it reads as no byte (log 9). -/
abbrev Memory := List Host.Cell

/-- The Consumer's code buffer: the ROM Store's bytes, or any other byte sequence (R36). -/
inductive CodeSource where
  | rom
  | bytes (code : List Byte)
  deriving DecidableEq, Repr, Inhabited

/-- What the Consumer does after a decode error, which the block does not fix (R37, R214): stop, or advance the cursor
by a number of bytes and go on (log 3, DESIGN CHOICE). -/
inductive ErrPolicy where
  | stop
  | advance (n : Nat)
  deriving DecidableEq, Repr, Inhabited

/-- The reference Consumer (R36, R37): its code buffer, its program counter, its error policy, and whether its
fetch-decode loop runs. None of it is block state. -/
structure Consumer where
  code    : CodeSource
  pc      : Nat
  policy  : ErrPolicy
  running : Bool
  deriving DecidableEq, Repr, Inhabited

/-- A request at a port (R33, R34, R35), or the Consumer's choice of buffer, cursor and policy (R36). -/
inductive Request where
  /-- LOAD (R33): the bytes the loader read, or none where the source could not be read. -/
  | load (source : Option (List Byte))
  /-- CONSTRUCT (R34, R131, R132). -/
  | construct (mode : Mode)
  /-- R134 -/
  | title
  /-- R135 -/
  | components
  /-- R136 -/
  | hasComponent (c : Component)
  /-- R137 -/
  | isColorMode
  /-- R138 -/
  | isSuperMode
  /-- R139 -/
  | romCapacity
  /-- R139 -/
  | ramCapacity
  /-- R139 -/
  | headerChecksumOk
  /-- DECODE (R35): a window of any length. -/
  | decode (window : List Byte)
  /-- The Consumer chooses what it decodes and from where, and begins its loop (R36; log 2). -/
  | consume (code : CodeSource) (pc : Nat) (policy : ErrPolicy)
  deriving DecidableEq, Repr, Inhabited

/-- A response at a port: `Ok v` or `Err e` of the request it answers (R12, R33 to R35). -/
inductive Response where
  /-- LOAD succeeded (R33). -/
  | loaded
  /-- LOAD could not read its source, error code 8 (R33, R209). -/
  | ioError
  /-- CONSTRUCT succeeded (R34). -/
  | constructed (h : CartridgeHeader)
  | text (t : Text)
  | componentList (cs : List Component)
  | flag (b : Bool)
  | romSize (c : RomCapacity)
  | ramSize (c : RamCapacity)
  /-- DECODE succeeded (R160). -/
  | decoded (r : DecodedInstruction)
  /-- CONSTRUCT or DECODE failed (R204). -/
  | err (e : DecodeError)
  deriving DecidableEq, Repr, Inhabited

/-- The machine. -/
structure State where
  /-- OPTABLE and COMPONENT_TABLE (R9, R10): parameters, never written by a step. -/
  params : Params
  /-- The ROM Store (R21). -/
  rom : Option Memory
  /-- The Header Register (R23). -/
  hdr : Option CartridgeHeader
  /-- The Decoder Unit's stage register (R24); none between requests (R25, R42). -/
  st : Option Stage
  /-- The Consumer (R36, R37). -/
  consumer : Consumer
  /-- The requests issued and not yet served, oldest first (the model's own; log 1). -/
  pending : List Request
  /-- The responses given, oldest first (the model's own; log 13). -/
  out : List Response
  deriving DecidableEq, Repr, Inhabited

/-- Why a step stops: the model faults of R210, which are no errors of the block. Each ends the run, so it is never
cleared, and no value is returned for it. -/
inductive Fault where
  /-- Raised by CONSTRUCT while `rom = none` (R210), and by the Consumer when it slices a window from a ROM Store that
  is not loaded (R42; log 8). Safe: nothing is claimed of what follows. -/
  | noRom
  /-- Raised by a header query while `hdr = none` (R140, R210). Safe. -/
  | noHeader
  /-- Raised by LOAD after a successful LOAD (R22, R210; log 7). Safe. -/
  | reloaded
  /-- Raised by a decode under an OPTABLE that breaks R81 to R83 (R210; log 16). Safe. -/
  | badTable
  deriving DecidableEq, Repr

/-- Why a step refuses. -/
inductive Refusal where
  /-- Raised by no arm of `exec`: every instruction of opcode_table.json has its meaning. Safe. -/
  | notModelled (mnemonic : String)
  deriving DecidableEq, Repr

/-- The machine after reset (R42, R230): no ROM, no header, no stage. The tables are the machine's own, which no source
gives (log 4, log 5). The Consumer is not block state: it has no buffer yet and does not run (log 2, log 3, DESIGN
CHOICE); no request is pending and no response was given (log 1, log 13). -/
def State.reset : State where
  params := Config.params
  rom := none
  hdr := none
  st := none
  consumer := { code := .bytes [], pc := 0, policy := .stop, running := false }
  pending := []
  out := []

end Sys2Proof.Machine
end

