-- ==== Sys2Proof/Machine/Ops.lean ====
section
/-! DEFINITION. The named operations over the state: the ROM Store's memory, the single-field updates, giving a response,
raising an error and applying the Consumer's policy, the Decoder Unit's transaction on the stage register, and slicing
the Consumer's window. -/

namespace Sys2Proof.Machine

/-! ### The ROM Store's memory -/

/-- The canonical form: the addresses are 0, 1, … in order, with none left out (R21). -/
def Memory.wf (m : Memory) : Bool := m.map Prod.fst == List.range m.length

/-- The cells of a byte sequence from a first address on. -/
def Memory.ofBytesFrom : Nat → List Byte → Memory
  | _, [] => []
  | a, b :: bs => (a, b) :: Memory.ofBytesFrom (a + 1) bs

/-- The memory LOAD writes (R33): index `a` is the byte at ROM address `a`. -/
def Memory.ofBytes (bs : List Byte) : Memory := Memory.ofBytesFrom 0 bs

/-- L_ROM (R8, R21). -/
def Memory.size (m : Memory) : Nat := m.length

/-- The byte sequence the Header Unit's regions are extracted from (R21, R100). -/
def Memory.bytes (m : Memory) : List Byte := m.map Prod.snd

/-- The byte at an address; none for an address that does not exist (R40; log 9). -/
def Memory.read (m : Memory) (a : Nat) : Option Byte :=
  match m with
  | [] => none
  | c :: cs => if c.1 = a then some c.2 else Memory.read cs a

/-- The byte at a ROM address, where a ROM is loaded and has that address. -/
def State.romByte (s : State) (a : Nat) : Option Byte :=
  match s.rom with
  | some m => Memory.read m a
  | none => none

/-! ### Single-field updates -/

/-- LOAD's write of the ROM Store (R33). -/
def State.setRom (s : State) (m : Memory) : State := { s with rom := some m }

/-- A successful construction's write of the Header Register (R133). -/
def State.setHdr (s : State) (h : CartridgeHeader) : State := { s with hdr := some h }

/-- A write of the stage register. -/
def State.setStage (s : State) (st : Option Stage) : State := { s with st := st }

/-- A change of the Consumer. -/
def State.setConsumer (s : State) (c : Consumer) : State := { s with consumer := c }

/-- A change of the requests that wait. -/
def State.setPending (s : State) (rs : List Request) : State := { s with pending := rs }

/-- Giving a response (R12, R37 `emit`). -/
def State.respond (s : State) (r : Response) : State := { s with out := s.out ++ [r] }

/-- The Consumer's advance `pc <- pc + n` (R37). -/
def State.advance (s : State) (n : Nat) : State :=
  s.setConsumer { s.consumer with pc := s.consumer.pc + n }

/-! ### Errors -/

/-- Delivery of an error (R204, R213): the response is `Err e` and nothing else changes; no state is saved, no mode
changes, control goes nowhere. -/
def State.raise (s : State) (e : DecodeError) : State := s.respond (.err e)

/-- What the Consumer does after an error of its own decode: its policy (R37, R214; log 3). -/
def State.applyPolicy (s : State) : State :=
  match s.consumer.policy with
  | .stop => s.setConsumer { s.consumer with running := false }
  | .advance n => s.advance n

/-! ### The Decoder Unit's transaction -/

/-- One stage transition of the stage register over a window (R162). -/
def State.stageStep (w : List Byte) (s : State) : State :=
  s.setStage (s.st.map (Stage.next s.params.optable w))

/-- `k` stage transitions. -/
def State.stageSteps (w : List Byte) : Nat → State → State
  | 0, s => s
  | k + 1, s => State.stageSteps w k (s.stageStep w)

/-- One DECODE request on the stage register (R25, R160): set it to `Prefix`, run the transitions, take the response,
discard the content. -/
def State.decodeRequest (s : State) (w : List Byte) : Except DecodeError DecodedInstruction × State :=
  let s1 := State.stageSteps w Stage.maxTransitions (s.setStage (some .start))
  ((s1.st.getD .start).response w, s1.setStage none)

/-- The end of the Consumer's fetch-decode step (R37): on `Ok r` the record is given and the cursor advances by
`r.length`; on `Err e` the error is given and the Consumer's policy applies. The stage register's content is discarded
with the response (R25). -/
def State.finishDecode (s : State) : Except DecodeError DecodedInstruction → State
  | .ok r => ((s.setStage none).respond (.decoded r)).advance r.length
  | .error e => ((s.setStage none).raise e).applyPolicy

/-- The Consumer's decode of an instruction whose form's response is `resp`: a model fault under an ill-formed OPTABLE
(R210), otherwise the end of the fetch-decode step. -/
def State.consumerDecode (s : State) (resp : Except DecodeError DecodedInstruction) :
    Host.Outcome State Fault Refusal :=
  if s.params.optable.wf then .next (s.finishDecode resp) else .fault .badTable

/-! ### The Consumer's window -/

/-- The Consumer's code buffer; none where it is the ROM Store and no ROM is loaded (R36, R42). -/
def State.codeBytes (s : State) : Option (List Byte) :=
  match s.consumer.code with
  | .bytes code => some code
  | .rom => s.rom.map Memory.bytes

/-- The window at a cursor: `code[pc, min(pc + 4, len(code)))` (R37). -/
def windowAt (code : List Byte) (pc : Nat) : List Byte := (code.drop pc).take Config.windowMax

/-- The window the Consumer hands over next; none where it has no code buffer (log 8). -/
def State.fetchWindow (s : State) : Option (List Byte) :=
  s.codeBytes.map fun code => windowAt code s.consumer.pc

end Sys2Proof.Machine
end

