-- ==== Sys2Proof/Machine/CbForms.lean ====
section
/-! DEFINITION. The CB-prefixed instructions: F-CB (R172) and `CB 00` (R178). -/

namespace Sys2Proof.Machine

/-- F-CB (R172). -/
def execCb (op : Byte) (imm : ImmBytes) (s : State) : Host.Outcome State Fault Refusal :=
  s.consumerDecode (formCb s.params.optable (encode (.cb op imm)))

/-- `CB 00` (R178): the record the rule gives, under the table's name for it. -/
def execCb00 (s : State) : Host.Outcome State Fault Refusal :=
  s.consumerDecode
    (.ok { ctx := .cb, opcode := 0x00, name := s.params.optable.cb00Name, disp := none, imm := .imm0, length := 2 })

end Sys2Proof.Machine
end

