-- ==== Sys2Proof/Machine/EdForms.lean ====
section
/-! DEFINITION. The ED-prefixed instructions: F-ED (R173). -/

namespace Sys2Proof.Machine

/-- F-ED (R173). -/
def execEd (op : Byte) (imm : ImmBytes) (s : State) : Host.Outcome State Fault Refusal :=
  s.consumerDecode (formEd s.params.optable (encode (.ed op imm)))

end Sys2Proof.Machine
end

