-- ==== Sys2Proof/Machine/IdxCbForms.lean ====
section
/-! DEFINITION. The double-prefix instructions `DD CB` and `FD CB`: F-IDXCB (R176). -/

namespace Sys2Proof.Machine

/-- F-IDXCB under `DD CB` (R176). -/
def execDdcb (d op : Byte) (s : State) : Host.Outcome State Fault Refusal :=
  s.consumerDecode (formIdxCb s.params.optable .dd (encode (.ddcb d op)))

/-- F-IDXCB under `FD CB` (R176). -/
def execFdcb (d op : Byte) (s : State) : Host.Outcome State Fault Refusal :=
  s.consumerDecode (formIdxCb s.params.optable .fd (encode (.fdcb d op)))

end Sys2Proof.Machine
end

