-- ==== Sys2Proof/Machine/IdxForms.lean ====
section
/-! DEFINITION. The instructions under one `DD` or `FD`: F-IDX (R174), F-IDXD (R175), `DD 09` (R179) and the illegal
second prefix (R180). -/

namespace Sys2Proof.Machine

/-- F-IDX under `DD` (R174). -/
def execDd (op : Byte) (imm : ImmBytes) (s : State) : Host.Outcome State Fault Refusal :=
  s.consumerDecode (formIdx s.params.optable .dd (encode (.dd op imm)))

/-- F-IDX under `FD` (R174). -/
def execFd (op : Byte) (imm : ImmBytes) (s : State) : Host.Outcome State Fault Refusal :=
  s.consumerDecode (formIdx s.params.optable .fd (encode (.fd op imm)))

/-- F-IDXD under `DD` (R175). -/
def execDdIdx (op d : Byte) (imm : ImmBytes) (s : State) : Host.Outcome State Fault Refusal :=
  s.consumerDecode (formIdxD s.params.optable .dd (encode (.ddIdx op d imm)))

/-- F-IDXD under `FD` (R175). -/
def execFdIdx (op d : Byte) (imm : ImmBytes) (s : State) : Host.Outcome State Fault Refusal :=
  s.consumerDecode (formIdxD s.params.optable .fd (encode (.fdIdx op d imm)))

/-- `DD 09` (R179): the record the rule gives, under the table's name for it. -/
def execDd09 (s : State) : Host.Outcome State Fault Refusal :=
  s.consumerDecode
    (.ok { ctx := .dd, opcode := 0x09, name := s.params.optable.idx09Name, disp := none, imm := .imm0, length := 2 })

/-- An illegal second prefix (R180): `UnknownPrefix` of the second byte, whichever of `DD` and `FD` the first one is. -/
def execUnknownPrefix (q : Byte) (s : State) : Host.Outcome State Fault Refusal :=
  s.consumerDecode (.error (.unknownPrefix q))

end Sys2Proof.Machine
end

