-- ==== Sys2Proof/Machine/MainForms.lean ====
section
/-! DEFINITION. The unprefixed instructions: F-MAIN (R171) and NOP (R177). -/

namespace Sys2Proof.Machine

/-- F-MAIN (R171). -/
def execMain (op : Byte) (imm : ImmBytes) (s : State) : Host.Outcome State Fault Refusal :=
  s.consumerDecode (formMain s.params.optable (encode (.main op imm)))

/-- NOP, `00` (R177): the record the rule gives; what a NOP does when executed is out of scope (R7). -/
def execNop (s : State) : Host.Outcome State Fault Refusal :=
  s.consumerDecode
    (.ok { ctx := .none, opcode := 0x00, name := nopName, disp := none, imm := .imm0, length := 1 })

end Sys2Proof.Machine
end

