-- ==== Sys2Proof/Machine/Dispatch.lean ====
section
/-! DEFINITION. The meaning of every instruction, one arm per constructor. -/

namespace Sys2Proof.Machine

def exec (i : Instr) (s : State) : Host.Outcome State Fault Refusal :=
  match i with
  | .main op imm => Sys2Proof.Machine.execMain op imm s
  | .cb op imm => Sys2Proof.Machine.execCb op imm s
  | .ed op imm => Sys2Proof.Machine.execEd op imm s
  | .dd op imm => Sys2Proof.Machine.execDd op imm s
  | .fd op imm => Sys2Proof.Machine.execFd op imm s
  | .ddIdx op d imm => Sys2Proof.Machine.execDdIdx op d imm s
  | .fdIdx op d imm => Sys2Proof.Machine.execFdIdx op d imm s
  | .ddcb d op => Sys2Proof.Machine.execDdcb d op s
  | .fdcb d op => Sys2Proof.Machine.execFdcb d op s
  | .nop => Sys2Proof.Machine.execNop s
  | .cb00 => Sys2Proof.Machine.execCb00 s
  | .dd09 => Sys2Proof.Machine.execDd09 s
  | .unknownPrefix _ q => Sys2Proof.Machine.execUnknownPrefix q s

end Sys2Proof.Machine
end

