-- ==== Sys2Proof/Machine/Fetch.lean ====
section
/-! DEFINITION. The Consumer's fetch-decode step (R37), and the placing of a word where it fetches next. -/

namespace Sys2Proof.Machine

/-- The Consumer's fetch-decode step (R37): slice the window, decode it, and run the meaning of the instruction it
spells; a window that spells none ends in its error. Slicing comes first (log 8), then the check of OPTABLE (R210). -/
def consumerStep (s : State) : Host.Outcome State Fault Refusal :=
  match s.fetchWindow with
  | none => .fault .noRom
  | some w =>
    match decode s.params.optable w with
    | .ok i => exec i s
    | .error e => s.consumerDecode (.error e)

/-- A state whose Consumer fetches the given bytes next: they are its code buffer, its cursor is at their start, its
loop runs and no request goes before it; the table is the probe table (log 10). -/
def placeCode (s : State) (code : List Byte) : State :=
  { s with
    params := { s.params with optable := OpTable.probe }
    consumer := { s.consumer with code := .bytes code, pc := 0, running := true }
    pending := [] }

end Sys2Proof.Machine
end

