-- ==== Sys2Proof/Machine/Flags.lean ====
section
/-! DEFINITION. The block's only flags (R38): the color-mode and super-mode flags (R127, R128) and the checksum verdict
(R129, R130), as functions of the ROM's bytes. -/

namespace Sys2Proof

/-- Region `CGB_FLAG` (R89). -/
def Region.cgbFlag : Region := ⟨0x143, 0x144, .byte⟩

/-- Region `SGB_FLAG` (R89). -/
def Region.sgbFlag : Region := ⟨0x146, 0x147, .byte⟩

/-- Region `CK_RANGE` (R89). -/
def Region.ckRange : Region := ⟨0x134, 0x14D, .array 25⟩

/-- Region `HDR_CK` (R89). -/
def Region.hdrCk : Region := ⟨0x14D, 0x14E, .byte⟩

/-- Step 5a (R127, R92): true iff the byte at `0x143` is `0x80`. -/
def colorModeFlag (buf : List Byte) : Except DecodeError Bool := do
  let s ← extract Region.cgbFlag buf
  let b ← toU8 s
  return b == 0x80

/-- Step 5b (R128, R92): true iff the byte at `0x146` is `0x03`. -/
def superModeFlag (buf : List Byte) : Except DecodeError Bool := do
  let s ← extract Region.sgbFlag buf
  let b ← toU8 s
  return b == 0x03

/-- The accumulator of the header checksum (R129): an integer with no width, which loses `byte + 1` at each byte. -/
def checksumAcc (cs : List Byte) : Int := cs.foldl (fun acc b => acc - (b.toNat : Int) - 1) 0

/-- The low 8 bits of the accumulator, unsigned: `acc mod 256` (R129). -/
def checksumByte (cs : List Byte) : Byte := BitVec.ofInt 8 (checksumAcc cs)

/-- Step 6a (R129): the checksum computed over `[0x134, 0x14D)`. -/
def computedChecksum (buf : List Byte) : Except DecodeError Byte := do
  let s ← extract Region.ckRange buf
  let cs ← toArray 25 s
  return checksumByte cs

/-- The stored checksum byte (R130). -/
def storedChecksum (buf : List Byte) : Except DecodeError Byte := do
  let s ← extract Region.hdrCk buf
  toU8 s

/-- The verdict `header_checksum_ok` (R130). -/
def checksumVerdict (computed stored : Byte) : Bool := computed == stored

end Sys2Proof
end

