-- ==== Sys2Proof/Machine/Title.lean ====
section
/-! DEFINITION. Header step 1: title extraction (R121) and its lossy decoding as UTF-8 (R122). The byte ranges and the
substitution rule are the spec's, which marks them as general knowledge (log 12, PRESUMED). -/

namespace Sys2Proof

/-- Region `TITLE` (R89). -/
def Region.title : Region := ⟨0x134, 0x144, .array 16⟩

/-- Step 1a (R121): the 16 title bytes. -/
def titleBytes (buf : List Byte) : Except DecodeError (List Byte) := do
  let s ← extract Region.title buf
  toArray 16 s

/-- U+FFFD REPLACEMENT CHARACTER (R122). -/
def replacementChar : Char := Char.ofNat 0xFFFD

/-- What a lead byte above `0x7F` announces: how many bytes follow, and the range of the second one; none for a byte
that begins no sequence (R122 `case b of`). -/
def utf8Lead (b : Byte) : Option (Nat × Nat × Nat) :=
  let n := b.toNat
  if 0xC2 ≤ n ∧ n ≤ 0xDF then some (1, 0x80, 0xBF)
  else if n = 0xE0 then some (2, 0xA0, 0xBF)
  else if 0xE1 ≤ n ∧ n ≤ 0xEC then some (2, 0x80, 0xBF)
  else if n = 0xED then some (2, 0x80, 0x9F)
  else if 0xEE ≤ n ∧ n ≤ 0xEF then some (2, 0x80, 0xBF)
  else if n = 0xF0 then some (3, 0x90, 0xBF)
  else if 0xF1 ≤ n ∧ n ≤ 0xF3 then some (3, 0x80, 0xBF)
  else if n = 0xF4 then some (3, 0x80, 0x8F)
  else none

/-- The continuation bytes that follow a lead: at most `need` of them, the next one within `[lo, hi]` and every later
one within `[0x80, 0xBF]` (the inner loop of R122). -/
def utf8Cont : Nat → Nat → Nat → List Byte → List Byte
  | 0, _, _, _ => []
  | _ + 1, _, _, [] => []
  | need + 1, lo, hi, b :: bs =>
    if lo ≤ b.toNat ∧ b.toNat ≤ hi then b :: utf8Cont need 0x80 0xBF bs else []

/-- The scalar value of a well-formed sequence of 2 to 4 bytes (R122 `scalar`). -/
def utf8Scalar (lead : Byte) (cont : List Byte) : Nat :=
  let top := if cont.length = 1 then lead.toNat % 0x20
    else if cont.length = 2 then lead.toNat % 0x10
    else lead.toNat % 0x08
  cont.foldl (fun acc b => acc * 0x40 + b.toNat % 0x40) top

/-- `utf8_lossy` (R122), one character per turn of the outer loop; the fuel is the number of bytes left, and each turn
consumes at least one. -/
def utf8LossyFuel : Nat → List Byte → Text
  | 0, _ => []
  | _ + 1, [] => []
  | fuel + 1, b :: bs =>
    if b.toNat ≤ 0x7F then Char.ofNat b.toNat :: utf8LossyFuel fuel bs
    else
      match utf8Lead b with
      | none => replacementChar :: utf8LossyFuel fuel bs
      | some (need, lo, hi) =>
        let cont := utf8Cont need lo hi bs
        let c := if cont.length = need then Char.ofNat (utf8Scalar b cont) else replacementChar
        c :: utf8LossyFuel fuel (bs.drop cont.length)

/-- Step 1b (R122): the title's bytes as text; never fails, trims nothing. -/
def utf8Lossy (bs : List Byte) : Text := utf8LossyFuel bs.length bs

end Sys2Proof
end

