-- ==== Sys2Proof/Machine/Header.lean ====
section
/-! DEFINITION. The Header Unit's steps 2 to 4 and the construction of a header in the order of R120, as functions of
the component table and the ROM's bytes (R123 to R126, R131, R132). What a CONSTRUCT request does to the state is in
Ports.lean. -/

namespace Sys2Proof

/-- Region `CART_TYPE` (R89). -/
def Region.cartType : Region := ⟨0x147, 0x148, .byte⟩

/-- Region `ROM_SIZE` (R89). -/
def Region.romSize : Region := ⟨0x148, 0x149, .byte⟩

/-- Region `RAM_SIZE` (R89). -/
def Region.ramSize : Region := ⟨0x149, 0x14A, .byte⟩

/-- Step 2 (R123). -/
def romCapacityStep (buf : List Byte) : Except DecodeError RomCapacity := do
  let s ← extract Region.romSize buf
  let rc ← toU8 s
  match RomCapacity.ofCode rc with
  | some c => return c
  | none => .error (.unknownROMSize rc)

/-- Step 3 (R124). -/
def ramCapacityStep (buf : List Byte) : Except DecodeError RamCapacity := do
  let s ← extract Region.ramSize buf
  let ac ← toU8 s
  match RamCapacity.ofCode ac with
  | some c => return c
  | none => .error (.unknownRAMSize ac)

/-- `attach` (R126): `ROM` and `RAM` carry the capacities, every other tag is its own component. -/
def ComponentTag.attach (r : RomCapacity) (a : RamCapacity) : ComponentTag → Component
  | .rom => .rom r
  | .mbc k => .mbc k
  | .battery => .battery
  | .memoryManagementModule => .memoryManagementModule
  | .ram => .ram a
  | .staticRAM => .staticRAM
  | .timer => .timer
  | .rumble => .rumble
  | .pocketCamera => .pocketCamera
  | .vendorA => .vendorA
  | .vendorB => .vendorB

/-- Step 4 (R125): the table's list, order and duplicates kept. -/
def componentsStep (C : ComponentTable) (buf : List Byte) (r : RomCapacity) (a : RamCapacity) :
    Except DecodeError (List Component) := do
  let s ← extract Region.cartType buf
  let tc ← toU8 s
  match C.lookup tc with
  | some tags => return tags.map (ComponentTag.attach r a)
  | none => .error (.unknownComponents tc)

/-- What the six steps find: the header, and the two checksum bytes the strict constructor compares. -/
structure HeaderParse where
  header   : CartridgeHeader
  computed : Byte
  stored   : Byte
  deriving DecidableEq, Repr

/-- The six steps in order, the first failing one giving the error (R120, R212). -/
def parseHeader (C : ComponentTable) (buf : List Byte) : Except DecodeError HeaderParse := do
  let tb ← titleBytes buf
  let romCap ← romCapacityStep buf
  let ramCap ← ramCapacityStep buf
  let comps ← componentsStep C buf romCap ramCap
  let color ← colorModeFlag buf
  let super ← superModeFlag buf
  let computed ← computedChecksum buf
  let stored ← storedChecksum buf
  return {
    header := {
      title := utf8Lossy tb
      components := comps
      romCapacity := romCap
      ramCapacity := ramCap
      isColorMode := color
      isSuperMode := super
      headerChecksumOk := checksumVerdict computed stored }
    computed := computed
    stored := stored }

/-- `construct_lenient` (R131): never `BadHeaderChecksum`. -/
def constructLenient (C : ComponentTable) (buf : List Byte) : Except DecodeError CartridgeHeader := do
  let p ← parseHeader C buf
  return p.header

/-- `construct_strict` (R132): the same steps, then a false verdict is `BadHeaderChecksum`. -/
def constructStrict (C : ComponentTable) (buf : List Byte) : Except DecodeError CartridgeHeader := do
  let p ← parseHeader C buf
  if p.header.headerChecksumOk then return p.header else .error (.badHeaderChecksum p.computed p.stored)

/-- The constructor a mode names (R34). -/
def constructHeader (m : Mode) (C : ComponentTable) (buf : List Byte) : Except DecodeError CartridgeHeader :=
  match m with
  | .strict => constructStrict C buf
  | .lenient => constructLenient C buf

/-- `has_component(c)` (R136): structural equality on the whole variant. -/
def CartridgeHeader.hasComponent (h : CartridgeHeader) (c : Component) : Bool := h.components.any (· == c)

end Sys2Proof
end

