-- ==== Sys2Proof/Machine/Ports.lean ====
section
/-! DEFINITION. The ports: what each request does and what it answers (R33 to R36, R131 to R140). Every request is one
atomic transaction (R5). -/

namespace Sys2Proof.Machine

/-- LOAD (R33, R22, R209): writes the ROM Store once; a read failure leaves it as it was; a LOAD after a successful one
is the model fault `reloaded` (R210; log 7). -/
def serveLoad (source : Option (List Byte)) (s : State) : Host.Outcome State Fault Refusal :=
  match s.rom with
  | some _ => .fault .reloaded
  | none =>
    match source with
    | some bytes => .next ((s.setRom (Memory.ofBytes bytes)).respond .loaded)
    | none => .next (s.respond .ioError)

/-- CONSTRUCT (R131, R132, R133): writes the Header Register only when it succeeds; without a ROM it is the model fault
`noRom` (R120, R210). -/
def serveConstruct (m : Mode) (s : State) : Host.Outcome State Fault Refusal :=
  match s.rom with
  | none => .fault .noRom
  | some mem =>
    match constructHeader m s.params.components (Memory.bytes mem) with
    | .ok h => .next ((s.setHdr h).respond (.constructed h))
    | .error e => .next (s.raise e)

/-- A header query (R134 to R140): answers from the Header Register and writes nothing; without a header it is the model
fault `noHeader`. -/
def serveQuery (answer : CartridgeHeader → Response) (s : State) : Host.Outcome State Fault Refusal :=
  match s.hdr with
  | none => .fault .noHeader
  | some h => .next (s.respond (answer h))

/-- DECODE (R35, R160): the Decoder Unit runs its stages over the window handed over and answers; the cursor is not the
block's to move (R36; log 19). -/
def serveDecode (w : List Byte) (s : State) : Host.Outcome State Fault Refusal :=
  if s.params.optable.wf then
    let (resp, s1) := s.decodeRequest w
    match resp with
    | .ok r => .next (s1.respond (.decoded r))
    | .error e => .next (s1.raise e)
  else .fault .badTable

/-- The Consumer's choice of code buffer, cursor and policy, which begins its loop (R36; log 2). -/
def serveConsume (code : CodeSource) (pc : Nat) (policy : ErrPolicy) (s : State) :
    Host.Outcome State Fault Refusal :=
  .next (s.setConsumer { code := code, pc := pc, policy := policy, running := true })

/-- One request. -/
def serve (r : Request) (s : State) : Host.Outcome State Fault Refusal :=
  match r with
  | .load source => serveLoad source s
  | .construct m => serveConstruct m s
  | .title => serveQuery (fun h => .text h.title) s
  | .components => serveQuery (fun h => .componentList h.components) s
  | .hasComponent c => serveQuery (fun h => .flag (h.hasComponent c)) s
  | .isColorMode => serveQuery (fun h => .flag h.isColorMode) s
  | .isSuperMode => serveQuery (fun h => .flag h.isSuperMode) s
  | .romCapacity => serveQuery (fun h => .romSize h.romCapacity) s
  | .ramCapacity => serveQuery (fun h => .ramSize h.ramCapacity) s
  | .headerChecksumOk => serveQuery (fun h => .flag h.headerChecksumOk) s
  | .decode w => serveDecode w s
  | .consume code pc policy => serveConsume code pc policy s

end Sys2Proof.Machine
end

