-- ==== Sys2Proof/Machine/Step.lean ====
section
/-! DEFINITION. One step of the machine: one atomic transaction (R5). -/

namespace Sys2Proof.Machine

/-- One step: the oldest request that waits is served (R60; log 1); where none waits, the Consumer makes one fetch-decode
step (R37); where its loop does not run, there is nothing to do and the state stays (log 17). -/
def step (s : State) : Host.Outcome State Fault Refusal :=
  match s.pending with
  | r :: rest => serve r (s.setPending rest)
  | [] => if s.consumer.running then consumerStep s else .next s

/-- The state with a word of opcode_table.json stored where the Consumer fetches next, under the probe table (log 10). -/
def State.withFetchWord (s : State) (nbits w : Nat) : State := placeCode s (tableWordBytes nbits w)

end Sys2Proof.Machine
end

