-- ==== Sys2Proof/Safety.lean ====
section
/-! DEFINITION. What counts as a safe run: when a request meets the caller's duties (R233) and which model fault it
raises where it does not (R210); the invariant of the stores; and what every reported record satisfies. -/

namespace Sys2Proof.Machine

/-- The model fault a request raises in a state, read from R210 and R233; none where the request is answered. -/
def Request.faultIn (s : State) : Request → Option Fault
  | .load _ => if s.rom.isSome then some .reloaded else none
  | .construct _ => if s.rom.isNone then some .noRom else none
  | .title => if s.hdr.isNone then some .noHeader else none
  | .components => if s.hdr.isNone then some .noHeader else none
  | .hasComponent _ => if s.hdr.isNone then some .noHeader else none
  | .isColorMode => if s.hdr.isNone then some .noHeader else none
  | .isSuperMode => if s.hdr.isNone then some .noHeader else none
  | .romCapacity => if s.hdr.isNone then some .noHeader else none
  | .ramCapacity => if s.hdr.isNone then some .noHeader else none
  | .headerChecksumOk => if s.hdr.isNone then some .noHeader else none
  | .decode _ => if s.params.optable.wf then none else some .badTable
  | .consume _ _ _ => none

/-- The model fault the next step raises, none where it answers a next state: that of the request served, or of the
Consumer's decode (log 8, log 16). -/
def State.faultNext (s : State) : Option Fault :=
  match s.pending with
  | r :: _ => r.faultIn s
  | [] =>
    if s.consumer.running then
      match s.consumer.code, s.rom with
      | .rom, none => some .noRom
      | _, _ => if s.params.optable.wf then none else some .badTable
    else none

/-- The invariant of the block's three pieces of state between requests: the stage register holds nothing (R25, R42);
the ROM Store's memory is in its canonical form (R21); a Header Register that is written holds the header of the ROM
that is loaded (R23, R133). -/
def State.Inv (s : State) : Prop :=
  s.st = none
    ∧ (∀ m, s.rom = some m → Memory.wf m = true)
    ∧ (∀ h, s.hdr = some h →
        ∃ m, s.rom = some m ∧ constructLenient s.params.components (Memory.bytes m) = .ok h)

/-- What R26, R76, R77 and R78 say of every decoded record: 1 to 4 bytes long, as long as its parts; a displacement in
[-128, 127] that only an index context has and a double-prefix one always has; a 2-byte immediate is little-endian. -/
def DecodedInstruction.Sound (r : DecodedInstruction) : Prop :=
  1 ≤ r.length ∧ r.length ≤ 4
    ∧ r.length = r.lengthBySum
    ∧ (∀ d, r.disp = some d → -128 ≤ d ∧ d ≤ 127)
    ∧ (r.disp.isSome = true → r.ctx ≠ .none ∧ r.ctx ≠ .cb ∧ r.ctx ≠ .ed)
    ∧ (r.ctx = .ddcb ∨ r.ctx = .fdcb → r.disp.isSome = true)
    ∧ (∀ lo hi v, r.imm = .imm16 lo hi v → v = u16le lo hi)

/-- Every record among the responses given is sound. -/
def State.RecordsSound (s : State) : Prop := ∀ r, Response.decoded r ∈ s.out → DecodedInstruction.Sound r

end Sys2Proof.Machine
end

