-- ==== Sys2Proof/Certificates/Slice0/Obligations.lean ====
section
/-! DEFINITION. The statements about the model, each a Prop under Obligations, with the words they share. -/

namespace Sys2Proof.Claims

open Sys2Proof.Machine

/-- The state after the Consumer's decode gave a record (R37): the record is the next response, the cursor advanced by
its length, the stage register holds nothing; the rest as it was. -/
def afterRecord (s : State) (r : DecodedInstruction) : State :=
  { s with
    st := none
    out := s.out ++ [.decoded r]
    consumer := { s.consumer with pc := s.consumer.pc + r.length } }

/-- The state after the Consumer's decode gave an error (R204): the error is the next response and the Consumer does what
its policy says (log 3); the rest as it was. -/
def afterError (s : State) (e : DecodeError) : State :=
  { s with
    st := none
    out := s.out ++ [.err e]
    consumer :=
      match s.consumer.policy with
      | .stop => { s.consumer with running := false }
      | .advance n => { s.consumer with pc := s.consumer.pc + n } }

/-- The context and the opcode byte of a window, where it holds both (R71, R72, R75). -/
def opcodeOf (w : List Byte) : Option (Ctx × Byte) :=
  match w with
  | [] => none
  | b0 :: r0 =>
    if b0 = 0xCB then r0.head?.map fun op => (Ctx.cb, op)
    else if b0 = 0xED then r0.head?.map fun op => (Ctx.ed, op)
    else if b0 = 0xDD ∨ b0 = 0xFD then
      match r0 with
      | [] => none
      | b1 :: r1 =>
        if b1 = 0xCB then r1[1]?.map fun op => (if b0 = 0xDD then Ctx.ddcb else Ctx.fdcb, op)
        else if b1 = 0xDD ∨ b1 = 0xED ∨ b1 = 0xFD then none
        else some (if b0 = 0xDD then Ctx.dd else Ctx.fd, b1)
    else some (Ctx.none, b0)

/-- The byte at a ROM address that exists. -/
def romAt (buf : List Byte) (a : Nat) : Byte := buf[a]?.getD 0

/-- What CONSTRUCT answers (R120 to R132), as one chain of cases over the length and the bytes of the ROM, with the
checksum in closed form. -/
def headerResult (m : Mode) (C : ComponentTable) (buf : List Byte) : Except DecodeError CartridgeHeader :=
  if buf.length < 0x144 then .error (.regionOutOfBounds 0x134 0x144 buf.length)
  else if buf.length < 0x149 then .error (.regionOutOfBounds 0x148 0x149 buf.length)
  else
    match RomCapacity.ofCode (romAt buf 0x148) with
    | none => .error (.unknownROMSize (romAt buf 0x148))
    | some romCap =>
      if buf.length < 0x14A then .error (.regionOutOfBounds 0x149 0x14A buf.length)
      else
        match RamCapacity.ofCode (romAt buf 0x149) with
        | none => .error (.unknownRAMSize (romAt buf 0x149))
        | some ramCap =>
          match C.lookup (romAt buf 0x147) with
          | none => .error (.unknownComponents (romAt buf 0x147))
          | some tags =>
            if buf.length < 0x14D then .error (.regionOutOfBounds 0x134 0x14D buf.length)
            else if buf.length < 0x14E then .error (.regionOutOfBounds 0x14D 0x14E buf.length)
            else
              let sum : Nat := (((buf.drop 0x134).take 25).map BitVec.toNat).sum
              let computed : Byte := BitVec.ofInt 8 (-((sum : Int) + 25))
              let stored := romAt buf 0x14D
              if m = .strict ∧ computed ≠ stored then .error (.badHeaderChecksum computed stored)
              else
                .ok {
                  title := utf8Lossy ((buf.drop 0x134).take 16)
                  components := tags.map (ComponentTag.attach romCap ramCap)
                  romCapacity := romCap
                  ramCapacity := ramCap
                  isColorMode := decide (romAt buf 0x143 = 0x80)
                  isSuperMode := decide (romAt buf 0x146 = 0x03)
                  headerChecksumOk := decide (computed = stored) }

/-- The response a query gives for a header (R134 to R139); none for a request that is no query. -/
def queryAnswer (h : CartridgeHeader) : Request → Option Response
  | .title => some (.text h.title)
  | .components => some (.componentList h.components)
  | .hasComponent c => some (.flag (decide (c ∈ h.components)))
  | .isColorMode => some (.flag h.isColorMode)
  | .isSuperMode => some (.flag h.isSuperMode)
  | .romCapacity => some (.romSize h.romCapacity)
  | .ramCapacity => some (.ramSize h.ramCapacity)
  | .headerChecksumOk => some (.flag h.headerChecksumOk)
  | _ => none

/-- The response of a decode. -/
def decodeAnswer : Except DecodeError DecodedInstruction → Response
  | .ok r => .decoded r
  | .error e => .err e

/-- The UTF-8 bytes of a character, as Lean's library encodes it. -/
def utf8Bytes (c : Char) : List Byte := (String.utf8EncodeChar c).map UInt8.toBitVec

end Sys2Proof.Claims

open Sys2Proof Sys2Proof.Machine Sys2Proof.Claims

/-! ### Encoding and the Decoder Unit -/

/-- Every well-formed instruction's bytes decode to it, whatever follows them in the window (R71 to R77). That the rows
`NOP`, `CB00`, `DD09` and `UNKNOWN_PREFIX` are constructors of their own is the model's choice (log 11). -/
def Obligations.DecodeInvertsEncode : Prop :=
  ∀ (T : OpTable) (i : Instr) (rest : List Byte), T.wf = true → i.wf T = true →
    decode T (encode i ++ rest) = .ok i

/-- Whatever decodes is well formed, and the window begins with exactly its bytes: no bit is dropped and no second window
spells the same instruction (R70, R71, R79). That an illegal second prefix counts as an instruction is log 11. -/
def Obligations.DecodedWindowBeginsWithTheEncoding : Prop :=
  ∀ (T : OpTable) (w : List Byte) (i : Instr), T.wf = true → decode T w = .ok i →
    i.wf T = true ∧ ∃ rest, w = encode i ++ rest

/-- The three instructions the source fixes, under every table, with the windows that are too short for them, and the
instructions those windows spell. The records and errors are those of R177, R178 and R179; that `00`, `CB 00` and `DD 09`
spell constructors of their own, as the last three clauses say, is the model's choice (log 11). -/
def Obligations.FixedInstructionsDecode : Prop :=
  ∀ (T : OpTable) (rest : List Byte),
    decodeWindow T (0x00 :: rest)
        = .ok { ctx := .none, opcode := 0x00, name := nopName, disp := none, imm := .imm0, length := 1 }
    ∧ decodeWindow T (0xCB :: 0x00 :: rest)
        = .ok { ctx := .cb, opcode := 0x00, name := T.cb00Name, disp := none, imm := .imm0, length := 2 }
    ∧ decodeWindow T (0xDD :: 0x09 :: rest)
        = .ok { ctx := .dd, opcode := 0x09, name := T.idx09Name, disp := none, imm := .imm0, length := 2 }
    ∧ decodeWindow T (0xFD :: 0x09 :: rest)
        = .ok { ctx := .fd, opcode := 0x09, name := T.idx09Name, disp := none, imm := .imm0, length := 2 }
    ∧ decodeWindow T [] = .error (.regionOutOfBounds 0 1 0)
    ∧ decodeWindow T [0xCB] = .error (.regionOutOfBounds 1 2 1)
    ∧ decodeWindow T [0xDD] = .error (.regionOutOfBounds 1 2 1)
    ∧ decode T (0x00 :: rest) = .ok .nop
    ∧ decode T (0xCB :: 0x00 :: rest) = .ok .cb00
    ∧ decode T (0xDD :: 0x09 :: rest) = .ok .dd09

/-- Words of the spec's decoder vectors (95_test_vectors.md D-4, D-16, D-27, D-36, D-37, D-41) spell the instruction they
stand for under every table whose entry has the vector's shape. The last two clauses rest on the model's choice that an
illegal second prefix is an instruction, the opcode table's row of it (log 11); the spec's response to those windows is the
error `UnknownPrefix`, which that instruction's meaning answers. -/
def Obligations.SpecWordsDecode : Prop :=
  ∀ (T : OpTable) (n : Name),
    (T.lookup .main 0x3E = some { name := n, imm := 1, idxrel := false } →
      decode T [0x3E, 0x7F] = .ok (.main 0x3E (.one 0x7F)))
    ∧ (T.lookup .ed 0x43 = some { name := n, imm := 2, idxrel := false } →
      decode T [0xED, 0x43, 0x00, 0xC0] = .ok (.ed 0x43 (.two 0x00 0xC0)))
    ∧ (T.lookup .idx 0x36 = some { name := n, imm := 1, idxrel := true } →
      decode T [0xDD, 0x36, 0xFE, 0x7F] = .ok (.ddIdx 0x36 0xFE (.one 0x7F)))
    ∧ (T.lookup .idxcb 0x46 = some { name := n, imm := 0, idxrel := false } →
      decode T [0xDD, 0xCB, 0xFF, 0x46] = .ok (.ddcb 0xFF 0x46))
    ∧ decode T [0xDD, 0xED] = .ok (.unknownPrefix .dd 0xED)
    ∧ decode T [0xFD, 0xDD, 0x00, 0x00] = .ok (.unknownPrefix .fd 0xDD)

/-- The stage machine of R162 answers every window as the form rules R171 to R176 do. -/
def Obligations.StagesAgreeWithForms : Prop :=
  ∀ (T : OpTable) (w : List Byte), T.wf = true → decodeWindow T w = formDecode T w

/-- A DECODE request on the stage register gives the window's decode, whatever the register held, and leaves it with no
value (R25, R231); so the exposed stages and the collapsed function agree (R5). That the register is emptied, so that it
holds nothing between requests, is the model's reading (log 6, DEDUCED). -/
def Obligations.StageRegisterIsPerRequest : Prop :=
  ∀ (s : State) (w : List Byte),
    s.decodeRequest w = (decodeWindow s.params.optable w, { s with st := none })

/-- From any window, five transitions reach `Done` or `Failed` (R161). -/
def Obligations.DecodeEndsWithinFiveTransitions : Prop :=
  ∀ (T : OpTable) (w : List Byte),
    (∃ r, Stage.run T w 5 .start = .done r) ∨ (∃ e, Stage.run T w 5 .start = .failed e)

/-- Only the first four bytes of a window matter, and a window of four or more bytes never gives a bounds error (R170). -/
def Obligations.DecodeReadsAtMostFourBytes : Prop :=
  ∀ (T : OpTable) (w : List Byte), T.wf = true →
    decodeWindow T w = decodeWindow T (w.take 4)
    ∧ (4 ≤ w.length → ∀ a b n, decodeWindow T w ≠ .error (.regionOutOfBounds a b n))

/-- More bytes behind a decoded instruction do not change its record (95_test_vectors.md P-e). -/
def Obligations.LongerWindowKeepsTheRecord : Prop :=
  ∀ (T : OpTable) (w rest : List Byte) (r : DecodedInstruction),
    decodeWindow T w = .ok r → decodeWindow T (w ++ rest) = .ok r

/-- The length of a record is 1 + prefix bytes + displacement + immediate width, is between 1 and 4, and the window holds
that many bytes (R78, R80). -/
def Obligations.LengthIsTheSumOfTheFields : Prop :=
  ∀ (T : OpTable) (w : List Byte) (r : DecodedInstruction), T.wf = true → decodeWindow T w = .ok r →
    r.length = 1 + r.ctx.prefixCount + (if r.disp.isSome then 1 else 0) + r.imm.width
    ∧ 1 ≤ r.length ∧ r.length ≤ 4 ∧ r.length ≤ w.length

/-- The consequences R211 draws from the stage order: an undefined opcode before its immediate; an illegal second prefix
whatever follows; a missing prefix or opcode byte before any table; a missing opcode after a read displacement. -/
def Obligations.DecodeErrorPriority : Prop :=
  ∀ (T : OpTable) (p : IdxPrefix) (b d : Byte) (rest : List Byte),
    (isPrefixByte b = false → T.lookup .main b = none →
      decodeWindow T (b :: rest) = .error (.unknownOpcode b .none))
    ∧ (T.lookup .cb b = none → decodeWindow T (0xCB :: b :: rest) = .error (.unknownOpcode b .cb))
    ∧ (T.lookup .ed b = none → decodeWindow T (0xED :: b :: rest) = .error (.unknownOpcode b .ed))
    ∧ (isPrefixByte b = false → T.lookup .idx b = none →
      decodeWindow T (p.byte :: b :: rest) = .error (.unknownOpcode b p.ctx))
    ∧ (b = 0xDD ∨ b = 0xED ∨ b = 0xFD →
      decodeWindow T (p.byte :: b :: rest) = .error (.unknownPrefix b))
    ∧ decodeWindow T [] = .error (.regionOutOfBounds 0 1 0)
    ∧ decodeWindow T [0xCB] = .error (.regionOutOfBounds 1 2 1)
    ∧ decodeWindow T [0xED] = .error (.regionOutOfBounds 1 2 1)
    ∧ decodeWindow T [p.byte] = .error (.regionOutOfBounds 1 2 1)
    ∧ decodeWindow T [p.byte, 0xCB, d] = .error (.regionOutOfBounds 3 4 3)

/-- `UnknownPrefix(b)` is the response exactly to `DD` or `FD` followed by `b` in `DD`, `ED`, `FD` (R180, R202). -/
def Obligations.UnknownPrefixExactly : Prop :=
  ∀ (T : OpTable) (w : List Byte) (b : Byte),
    decodeWindow T w = .error (.unknownPrefix b) ↔
      ∃ (p : IdxPrefix) (rest : List Byte), w = p.byte :: b :: rest ∧ (b = 0xDD ∨ b = 0xED ∨ b = 0xFD)

/-- `UnknownOpcode(b, ctx)` is the response exactly where the window's opcode byte is `b` in context `ctx` and the active
table has no entry there (R203). -/
def Obligations.UnknownOpcodeExactly : Prop :=
  ∀ (T : OpTable) (w : List Byte) (b : Byte) (ctx : Ctx),
    decodeWindow T w = .error (.unknownOpcode b ctx) ↔
      opcodeOf w = some (ctx, b) ∧ T.lookup ctx.table b = none

/-- A bounds error of a decode names a range that the window does not hold, within the first four bytes, and the window's
length (R201, R169). -/
def Obligations.BoundsErrorNamesTheMissingRange : Prop :=
  ∀ (T : OpTable) (w : List Byte) (a b n : Nat), T.wf = true →
    decodeWindow T w = .error (.regionOutOfBounds a b n) →
      n = w.length ∧ n < b ∧ a < b ∧ b ≤ 4

/-! ### The form rules -/

/-- F-MAIN (R171). -/
def Obligations.FormMainRule : Prop :=
  ∀ (T : OpTable) (b : Byte) (rest : List Byte), isPrefixByte b = false →
    decodeWindow T (b :: rest) =
      match T.lookup .main b with
      | none => .error (.unknownOpcode b .none)
      | some e =>
        if rest.length < e.imm.val then .error (.regionOutOfBounds 1 (1 + e.imm.val) (rest.length + 1))
        else
          .ok { ctx := .none, opcode := b, name := e.name, disp := none,
                imm := assembleImm (rest.take e.imm.val), length := 1 + e.imm.val }

/-- F-CB and F-ED (R172, R173): byte 1 is the opcode whatever its value. -/
def Obligations.FormCbAndEdRule : Prop :=
  ∀ (T : OpTable) (b : Byte) (rest : List Byte),
    decodeWindow T [0xCB] = .error (.regionOutOfBounds 1 2 1)
    ∧ decodeWindow T [0xED] = .error (.regionOutOfBounds 1 2 1)
    ∧ decodeWindow T (0xCB :: b :: rest) =
      (match T.lookup .cb b with
      | none => .error (.unknownOpcode b .cb)
      | some e =>
        if rest.length < e.imm.val then .error (.regionOutOfBounds 2 (2 + e.imm.val) (rest.length + 2))
        else
          .ok { ctx := .cb, opcode := b, name := e.name, disp := none,
                imm := assembleImm (rest.take e.imm.val), length := 2 + e.imm.val })
    ∧ decodeWindow T (0xED :: b :: rest) =
      (match T.lookup .ed b with
      | none => .error (.unknownOpcode b .ed)
      | some e =>
        if rest.length < e.imm.val then .error (.regionOutOfBounds 2 (2 + e.imm.val) (rest.length + 2))
        else
          .ok { ctx := .ed, opcode := b, name := e.name, disp := none,
                imm := assembleImm (rest.take e.imm.val), length := 2 + e.imm.val })

/-- F-IDX and F-IDXD (R174, R175): the entry's `idxrel` tells whether a displacement byte follows the opcode. -/
def Obligations.FormIndexRule : Prop :=
  ∀ (T : OpTable) (p : IdxPrefix) (b : Byte) (rest : List Byte),
    decodeWindow T [p.byte] = .error (.regionOutOfBounds 1 2 1)
    ∧ (isPrefixByte b = false →
      decodeWindow T (p.byte :: b :: rest) =
        match T.lookup .idx b, rest with
        | none, _ => .error (.unknownOpcode b p.ctx)
        | some ⟨name, imm, false⟩, rest =>
          if rest.length < imm.val then .error (.regionOutOfBounds 2 (2 + imm.val) (rest.length + 2))
          else
            .ok { ctx := p.ctx, opcode := b, name := name, disp := none,
                  imm := assembleImm (rest.take imm.val), length := 2 + imm.val }
        | some ⟨_, _, true⟩, [] => .error (.regionOutOfBounds 2 3 2)
        | some ⟨name, imm, true⟩, d :: rest' =>
          if rest'.length < imm.val then .error (.regionOutOfBounds 3 (3 + imm.val) (rest'.length + 3))
          else
            .ok { ctx := p.ctx, opcode := b, name := name, disp := some (sext8 d),
                  imm := assembleImm (rest'.take imm.val), length := 3 + imm.val })

/-- F-IDXCB (R176): the displacement precedes the opcode, which may be any byte, and there is no immediate. -/
def Obligations.FormDoublePrefixRule : Prop :=
  ∀ (T : OpTable) (p : IdxPrefix) (d b : Byte) (rest : List Byte), T.wf = true →
    decodeWindow T [p.byte, 0xCB] = .error (.regionOutOfBounds 2 3 2)
    ∧ decodeWindow T [p.byte, 0xCB, d] = .error (.regionOutOfBounds 3 4 3)
    ∧ decodeWindow T (p.byte :: 0xCB :: d :: b :: rest) =
      match T.lookup .idxcb b with
      | none => .error (.unknownOpcode b p.ctxCB)
      | some e =>
        .ok { ctx := p.ctxCB, opcode := b, name := e.name, disp := some (sext8 d), imm := .imm0, length := 4 }

/-! ### The meanings -/

/-- An unprefixed instruction whose opcode has an entry of its immediate's width gives its record and advances the
cursor by its length (R171, R37). Of `00`, which spells the constructor `nop`, this is the form's meaning (log 11, log 20). -/
def Obligations.UnprefixedInstructionCompletes : Prop :=
  ∀ (s : State) (op : Byte) (imm : ImmBytes) (e : Entry), s.params.optable.wf = true →
    s.params.optable.lookup .main op = some e → e.imm.val = imm.width →
      exec (.main op imm) s = .next (afterRecord s
        { ctx := .none, opcode := op, name := e.name, disp := none, imm := assembleImm imm.bytes,
          length := 1 + imm.width })

/-- The same of the instructions under `CB` and `ED` (R172, R173), `CB 00` by its form among them (log 11, log 20). -/
def Obligations.CbAndEdInstructionsComplete : Prop :=
  ∀ (s : State) (op : Byte) (imm : ImmBytes) (e : Entry), s.params.optable.wf = true → e.imm.val = imm.width →
    (s.params.optable.lookup .cb op = some e →
      exec (.cb op imm) s = .next (afterRecord s
        { ctx := .cb, opcode := op, name := e.name, disp := none, imm := assembleImm imm.bytes,
          length := 2 + imm.width }))
    ∧ (s.params.optable.lookup .ed op = some e →
      exec (.ed op imm) s = .next (afterRecord s
        { ctx := .ed, opcode := op, name := e.name, disp := none, imm := assembleImm imm.bytes,
          length := 2 + imm.width }))

/-- The same of the instructions under one `DD` or `FD`, without and with a displacement (R174, R175), `DD 09` by its form
among them (log 11, log 20). -/
def Obligations.IndexInstructionsComplete : Prop :=
  ∀ (s : State) (op d : Byte) (imm : ImmBytes) (e : Entry), s.params.optable.wf = true →
    s.params.optable.lookup .idx op = some e → e.imm.val = imm.width →
      (e.idxrel = false →
        exec (.dd op imm) s = .next (afterRecord s
          { ctx := .dd, opcode := op, name := e.name, disp := none, imm := assembleImm imm.bytes,
            length := 2 + imm.width })
        ∧ exec (.fd op imm) s = .next (afterRecord s
          { ctx := .fd, opcode := op, name := e.name, disp := none, imm := assembleImm imm.bytes,
            length := 2 + imm.width }))
      ∧ (e.idxrel = true →
        exec (.ddIdx op d imm) s = .next (afterRecord s
          { ctx := .dd, opcode := op, name := e.name, disp := some (sext8 d), imm := assembleImm imm.bytes,
            length := 3 + imm.width })
        ∧ exec (.fdIdx op d imm) s = .next (afterRecord s
          { ctx := .fd, opcode := op, name := e.name, disp := some (sext8 d), imm := assembleImm imm.bytes,
            length := 3 + imm.width }))

/-- The same of the double-prefix instructions (R176). -/
def Obligations.DoublePrefixInstructionsComplete : Prop :=
  ∀ (s : State) (d op : Byte) (e : Entry), s.params.optable.wf = true →
    s.params.optable.lookup .idxcb op = some e →
      exec (.ddcb d op) s = .next (afterRecord s
        { ctx := .ddcb, opcode := op, name := e.name, disp := some (sext8 d), imm := .imm0, length := 4 })
      ∧ exec (.fdcb d op) s = .next (afterRecord s
        { ctx := .fdcb, opcode := op, name := e.name, disp := some (sext8 d), imm := .imm0, length := 4 })

/-- NOP, `CB 00` and `DD 09` give the records the rules give (R177, R178, R179), and those are the records of their forms
over their own bytes. That these rows have constructors of their own, and what the forms' constructors mean at the same
bytes, is the model's choice (log 11, log 20). -/
def Obligations.FixedInstructionsComplete : Prop :=
  ∀ (s : State), s.params.optable.wf = true →
    exec .nop s = .next (afterRecord s
      { ctx := .none, opcode := 0x00, name := "NOP", disp := none, imm := .imm0, length := 1 })
    ∧ exec .cb00 s = .next (afterRecord s
      { ctx := .cb, opcode := 0x00, name := s.params.optable.cb00Name, disp := none, imm := .imm0, length := 2 })
    ∧ exec .dd09 s = .next (afterRecord s
      { ctx := .dd, opcode := 0x09, name := s.params.optable.idx09Name, disp := none, imm := .imm0, length := 2 })
    ∧ exec .nop s = exec (.main 0x00 .none) s
    ∧ exec .cb00 s = exec (.cb 0x00 .none) s
    ∧ exec .dd09 s = exec (.dd 0x09 .none) s

/-- An illegal second prefix answers `UnknownPrefix` of it; nothing of the block changes and the Consumer's policy applies
(R180, R202, R204; the policy is the model's, log 3, and so is that such a window is an instruction, log 11). -/
def Obligations.UnknownPrefixCompletes : Prop :=
  ∀ (s : State) (p : IdxPrefix) (q : Byte), s.params.optable.wf = true →
    exec (.unknownPrefix p q) s = .next (afterError s (.unknownPrefix q))

/-- The model's choice (log 20), no rule of the spec: a term of `Instr` whose opcode has no entry in its form's table,
which no window spells, answers `UnknownOpcode` of the byte and the form's context, however many immediate bytes it
carries. It is what the form's pseudocode gives for those bytes (R165, R203), also where the opcode is a prefix byte, as
in `dd 0xED`, whose bytes the decoder itself answers with `UnknownPrefix` (R180). The Consumer's policy is log 3. -/
def Obligations.UndefinedOpcodeAnswersItsError : Prop :=
  ∀ (s : State) (op d : Byte) (imm : ImmBytes), s.params.optable.wf = true →
    (s.params.optable.lookup .main op = none →
      exec (.main op imm) s = .next (afterError s (.unknownOpcode op .none)))
    ∧ (s.params.optable.lookup .cb op = none →
      exec (.cb op imm) s = .next (afterError s (.unknownOpcode op .cb)))
    ∧ (s.params.optable.lookup .ed op = none →
      exec (.ed op imm) s = .next (afterError s (.unknownOpcode op .ed)))
    ∧ (s.params.optable.lookup .idx op = none →
      exec (.dd op imm) s = .next (afterError s (.unknownOpcode op .dd))
      ∧ exec (.fd op imm) s = .next (afterError s (.unknownOpcode op .fd))
      ∧ exec (.ddIdx op d imm) s = .next (afterError s (.unknownOpcode op .dd))
      ∧ exec (.fdIdx op d imm) s = .next (afterError s (.unknownOpcode op .fd)))
    ∧ (s.params.optable.lookup .idxcb op = none →
      exec (.ddcb d op) s = .next (afterError s (.unknownOpcode op .ddcb))
      ∧ exec (.fdcb d op) s = .next (afterError s (.unknownOpcode op .fdcb)))

/-- The frame of all thirteen instructions: no instruction reads or writes the ROM Store, the Header Register or the
parameters, every ROM byte reads as before, the requests that wait stay, the Consumer's buffer and policy stay, exactly
one response is given, and the stage register holds nothing (R20, R25, R55, R182, R184; that it is emptied is log 6). -/
def Obligations.InstructionFrame : Prop :=
  ∀ (i : Instr) (s t : State), exec i s = .next t →
    t.params = s.params ∧ t.rom = s.rom ∧ t.hdr = s.hdr ∧ t.st = none
    ∧ (∀ a, t.romByte a = s.romByte a)
    ∧ t.pending = s.pending
    ∧ t.consumer.code = s.consumer.code ∧ t.consumer.policy = s.consumer.policy
    ∧ ((∃ r, t.out = s.out ++ [.decoded r]) ∨ (∃ e, t.out = s.out ++ [.err e]))

/-- A decode under an OPTABLE that breaks R81 to R83 is the model fault `badTable`, of every instruction (R210;
that the check is made at every decode is log 16). -/
def Obligations.IllFormedTableFaults : Prop :=
  ∀ (i : Instr) (s : State), s.params.optable.wf = false → exec i s = .fault .badTable

/-! ### The step -/

/-- Where no request waits, the Consumer runs and its window spells an instruction, the step is that instruction's
meaning, with nothing added (R37). -/
def Obligations.StepRunsTheDecodedInstruction : Prop :=
  ∀ (s : State) (code : List Byte) (i : Instr), s.pending = [] → s.consumer.running = true →
    s.codeBytes = some code →
    decode s.params.optable ((code.drop s.consumer.pc).take 4) = .ok i → step s = exec i s

/-- The Consumer's step is the DECODE of `code[pc, min(pc + 4, len(code)))`: on a record it gives it and advances by its
length, on an error it gives it and its policy applies; nothing else changes (R37). -/
def Obligations.ConsumerStepDecodesItsWindow : Prop :=
  ∀ (s : State) (code : List Byte), s.pending = [] → s.consumer.running = true → s.codeBytes = some code →
    s.params.optable.wf = true →
      step s =
        match decodeWindow s.params.optable ((code.drop s.consumer.pc).take 4) with
        | .ok r => .next (afterRecord s r)
        | .error e => .next (afterError s e)

/-- Where the code at the cursor begins with a well-formed instruction's bytes, the step is that instruction's meaning,
and unless it is the illegal second prefix the cursor moves to the bytes behind it (R37, R234). -/
def Obligations.EncodedInstructionRunsInPlace : Prop :=
  ∀ (s : State) (code rest : List Byte) (i : Instr), s.pending = [] → s.consumer.running = true →
    s.codeBytes = some code → s.params.optable.wf = true → i.wf s.params.optable = true →
    code.drop s.consumer.pc = encode i ++ rest →
      step s = exec i s
      ∧ ((∀ p q, i ≠ .unknownPrefix p q) →
          ∃ t, step s = .next t ∧ t.consumer.pc = s.consumer.pc + (encode i).length
            ∧ code.drop t.consumer.pc = rest)

/-- The DECODE port answers the window's decode and leaves the stores and the Consumer as they were (R35, R160). -/
def Obligations.DecodePortAnswersTheWindow : Prop :=
  ∀ (s : State) (w : List Byte) (rest : List Request), s.pending = .decode w :: rest →
    s.params.optable.wf = true →
      step s = .next
        { s with
          st := none
          pending := rest
          out := s.out ++ [decodeAnswer (decodeWindow s.params.optable w)] }

/-- What a Consumer decodes from its own buffer does not depend on the ROM Store, the Header Register, the stage register
or the component table: the same responses, the same cursor (R2, R161, R232). -/
def Obligations.DecodeIgnoresTheStores : Prop :=
  ∀ (s s' t : State) (code : List Byte), s.pending = [] → s'.pending = [] →
    s.consumer = s'.consumer → s.consumer.code = .bytes code → s.params.optable = s'.params.optable →
    s.out = s'.out → step s = .next t →
      ∃ t', step s' = .next t' ∧ t'.consumer = t.consumer ∧ t'.out = t.out

/-- Two DECODE requests answer the same in either order (R60, R186). -/
def Obligations.DecodeRequestsAreIndependent : Prop :=
  ∀ (s : State) (w v : List Byte), s.params.optable.wf = true →
    ∃ s1 s2 t1 t2 a b,
      step { s with pending := [.decode w, .decode v] } = .next s1 ∧ step s1 = .next s2
      ∧ step { s with pending := [.decode v, .decode w] } = .next t1 ∧ step t1 = .next t2
      ∧ s2.out = s.out ++ [a, b] ∧ t2.out = s.out ++ [b, a]
      ∧ { s2 with out := s.out } = { t2 with out := s.out }

/-- The frame of a step: the parameters never change, at most one response is given and it comes last, and at most the
oldest request is gone from those that wait (R5, R9, R10). -/
def Obligations.StepFrame : Prop :=
  ∀ (s t : State), step s = .next t →
    t.params = s.params
    ∧ (t.pending = s.pending ∨ ∃ r, s.pending = r :: t.pending)
    ∧ (t.out = s.out ∨ ∃ resp, t.out = s.out ++ [resp])

/-! ### Ports -/

/-- LOAD writes the bytes it is given, each at its address, and no more; a read failure answers `IoError` and leaves the
store empty (R33, R209); a LOAD after a successful one is the model fault `reloaded` (R22, R210). -/
def Obligations.LoadWritesTheRomStoreOnce : Prop :=
  ∀ (s : State) (src : Option (List Byte)) (rest : List Request), s.pending = .load src :: rest →
    (s.rom = none →
      match src with
      | some bs =>
        ∃ m, step s = .next { s with pending := rest, rom := some m, out := s.out ++ [.loaded] }
          ∧ Memory.wf m = true ∧ Memory.size m = bs.length ∧ (∀ a, Memory.read m a = bs[a]?)
      | none => step s = .next { s with pending := rest, out := s.out ++ [.ioError] })
    ∧ (s.rom ≠ none → step s = .fault .reloaded)

/-- CONSTRUCT runs the six steps in order and answers the first failing one's error, `BadHeaderChecksum` last and only in
the strict mode, or writes the whole header and answers it; without a ROM it is the model fault `noRom` (R120 to R132). -/
def Obligations.ConstructFollowsTheSixSteps : Prop :=
  ∀ (s : State) (m : Mode) (rest : List Request), s.pending = .construct m :: rest →
    step s =
      match s.rom with
      | none => .fault .noRom
      | some mem =>
        match headerResult m s.params.components (Memory.bytes mem) with
        | .ok h => .next { s with pending := rest, hdr := some h, out := s.out ++ [.constructed h] }
        | .error e => .next { s with pending := rest, out := s.out ++ [.err e] }

/-- A header the strict constructor returns has a true verdict and is the one the lenient constructor returns;
`BadHeaderChecksum` is raised by the strict constructor only, and exactly where the lenient one returns a header whose
verdict is false, the two bytes being the computed and the stored one (R131, R132, R133, R208). -/
def Obligations.StrictIsLenientWithGoodChecksum : Prop :=
  ∀ (C : ComponentTable) (buf : List Byte),
    (∀ h, constructStrict C buf = .ok h ↔ constructLenient C buf = .ok h ∧ h.headerChecksumOk = true)
    ∧ (∀ c k, constructLenient C buf ≠ .error (.badHeaderChecksum c k))
    ∧ (∀ c k, constructStrict C buf = .error (.badHeaderChecksum c k) ↔
        (∃ h, constructLenient C buf = .ok h) ∧ c ≠ k
          ∧ computedChecksum buf = .ok c ∧ storedChecksum buf = .ok k)

/-- Every query answers its field of the Header Register and writes nothing; `has_component` is membership by structural
equality (R134 to R139). -/
def Obligations.QueriesAnswerTheHeader : Prop :=
  ∀ (s : State) (h : CartridgeHeader) (q : Request) (a : Response) (rest : List Request),
    s.pending = q :: rest → s.hdr = some h → queryAnswer h q = some a →
      step s = .next { s with pending := rest, out := s.out ++ [a] }

/-- A query while the Header Register holds nothing is the model fault `noHeader`, whatever else the state holds
(R140). -/
def Obligations.QueryWithoutHeaderFaults : Prop :=
  ∀ (s : State) (q : Request) (rest : List Request), s.pending = q :: rest → s.hdr = none →
    (∃ h a, queryAnswer h q = some a) → step s = .fault .noHeader

/-- A step faults exactly as the caller's duties say, with the fault R210 names, and otherwise answers a next state; it
never refuses (R210, R233). -/
def Obligations.StepFaultsExactly : Prop :=
  ∀ (s : State),
    match s.faultNext with
    | some f => step s = .fault f
    | none => ∃ t, step s = .next t

/-! ### Invariants -/

/-- Reset leaves the ROM Store, the Header Register and the stage register without a value (R42, R230), and meets the
invariant. -/
def Obligations.ResetIsEmptyAndMeetsTheInvariant : Prop :=
  State.reset.rom = none ∧ State.reset.hdr = none ∧ State.reset.st = none ∧ State.reset.Inv
    ∧ State.reset.RecordsSound

/-- Every step keeps the invariant of the stores: no stage between requests, a ROM Store in canonical form, a Header
Register that is the header of the loaded ROM (R21, R23, R25, R133). -/
def Obligations.StepKeepsTheInvariant : Prop :=
  ∀ (s t : State), s.Inv → step s = .next t → t.Inv

/-- Once written the Header Register never changes, whichever constructor runs again (R23, R133). -/
def Obligations.HeaderRegisterNeverChanges : Prop :=
  ∀ (s t : State) (h : CartridgeHeader), s.Inv → s.hdr = some h → step s = .next t → t.hdr = some h

/-- Only a construction that succeeds writes the Header Register, and it writes what the loaded ROM gives (R23, R133). -/
def Obligations.OnlyConstructWritesTheHeader : Prop :=
  ∀ (s t : State), step s = .next t →
    t.hdr = s.hdr
    ∨ ∃ m rest mem h, s.pending = .construct m :: rest ∧ s.rom = some mem
        ∧ constructHeader m s.params.components (Memory.bytes mem) = .ok h ∧ t.hdr = some h

/-- Only a LOAD into an empty store writes the ROM Store (R22, R55). -/
def Obligations.OnlyLoadWritesTheRomStore : Prop :=
  ∀ (s t : State), step s = .next t →
    t.rom = s.rom
    ∨ ∃ bs rest, s.pending = .load (some bs) :: rest ∧ s.rom = none ∧ t.rom = some (Memory.ofBytes bs)

/-- A request that ends in an error leaves the block's state as it was: no partial header, no stage, no ROM byte changed;
the error is in the response and nowhere else (R204). -/
def Obligations.ErrorsChangeNoBlockState : Prop :=
  ∀ (s t : State) (e : DecodeError), s.st = none → step s = .next t → t.out = s.out ++ [.err e] →
    t.params = s.params ∧ t.rom = s.rom ∧ t.hdr = s.hdr ∧ t.st = s.st

/-- Every record the block reports is sound, at every port and in every state: 1 to 4 bytes, the sum of its parts, a
displacement in [-128, 127] only in an index context, a little-endian immediate (R26, R76 to R78). -/
def Obligations.ReportedRecordsAreSound : Prop :=
  ∀ (s t : State), s.RecordsSound → step s = .next t → t.RecordsSound

/-! ### Tables, operands, regions, header fields -/

/-- The check of OPTABLE is exactly R81, R82 and R83 of every entry in force. -/
def Obligations.OptableCheckIsItsConstraints : Prop :=
  ∀ (T : OpTable), T.wf = true ↔
    ∀ (t : Table) (b : Byte) (e : Entry), T.lookup t b = some e →
      (e.idxrel = true → t = .idx)
      ∧ (t = .idx → e.idxrel = true → e.imm.val ≤ 1)
      ∧ (t = .idxcb → e.imm.val = 0)
      ∧ (t = .main ∨ t = .idx → b ≠ 0xCB ∧ b ≠ 0xDD ∧ b ≠ 0xED ∧ b ≠ 0xFD)

/-- The three entries the source fixes (R84, R85, R86). -/
def Obligations.FixedOptableEntries : Prop :=
  ∀ (T : OpTable),
    T.lookup .main 0x00 = some { name := "NOP", imm := 0, idxrel := false }
    ∧ (∃ e, T.lookup .cb 0x00 = some e ∧ e.imm = 0)
    ∧ (∃ e, T.lookup .idx 0x09 = some e ∧ e.imm = 0 ∧ e.idxrel = false)

/-- The domain of COMPONENT_TABLE has 33 codes, within `0x00` to `0x1F` and `0xFD` to `0xFF`, without `0x15` and `0x20`,
and code `0x03` has the list the source gives (R93, R94). -/
def Obligations.ComponentTableDomain : Prop :=
  ∀ (C : ComponentTable),
    ((List.range 256).filter fun n => (C.lookup (BitVec.ofNat 8 n)).isSome).length = 33
    ∧ (∀ b : Byte, (C.lookup b).isSome = true → b.toNat ≤ 0x1F ∨ 0xFD ≤ b.toNat)
    ∧ C.lookup 0x15 = none ∧ C.lookup 0x20 = none
    ∧ C.lookup 0x03 = some [.rom, .mbc .mbc1, .ram, .battery]

/-- Capacity codes and capacities are mutually inverse, no two codes share a byte count, and a ROM's byte count is its
bank count times 16384 (R90, R91, R141). -/
def Obligations.CapacityTablesRoundTrip : Prop :=
  (∀ c : RomCapacity, RomCapacity.ofCode c.code = some c ∧ c.bytes = c.banks * 16384)
  ∧ (∀ (b : Byte) (c : RomCapacity), RomCapacity.ofCode b = some c → c.code = b)
  ∧ (∀ c : RamCapacity, RamCapacity.ofCode c.code = some c)
  ∧ (∀ (b : Byte) (c : RamCapacity), RamCapacity.ofCode b = some c → c.code = b)
  ∧ (∀ c c' : RomCapacity, c.bytes = c'.bytes → c = c')
  ∧ (∀ c c' : RamCapacity, c.bytes = c'.bytes → c = c')

/-- The byte count of every capacity code, and which code bytes have none (R90, R91). -/
def Obligations.CapacityCodesGiveTheListedSizes : Prop :=
  ∀ b : Byte,
    (RomCapacity.ofCode b).map RomCapacity.bytes =
      (if b.toNat ≤ 6 then some (2 * 2 ^ b.toNat * 16384)
      else if b.toNat = 0x52 then some 1179648
      else if b.toNat = 0x53 then some 1310720
      else if b.toNat = 0x54 then some 1572864
      else none)
    ∧ (RamCapacity.ofCode b).map RamCapacity.bytes = [0, 2048, 8192, 32768, 131072][b.toNat]?

/-- The displacement is the signed value of its byte, in [-128, 127], and keeps the byte (R76); the 2-byte immediate is
little-endian and keeps its raw bytes, the 1-byte one is unsigned (R50, R77). -/
def Obligations.OperandAssembly : Prop :=
  (∀ b : Byte, sext8 b = b.toInt ∧ -128 ≤ sext8 b ∧ sext8 b ≤ 127 ∧ dispByte (sext8 b) = b)
  ∧ assembleImm [] = .imm0
  ∧ (∀ b : Byte, assembleImm [b] = .imm8 b)
  ∧ (∀ lo hi : Byte, ∃ v : Half, assembleImm [lo, hi] = .imm16 lo hi v ∧ v.toNat = lo.toNat + 256 * hi.toNat)

/-- A region read returns the bytes of its whole range, or a bounds error with the range and the length where the range
ends beyond the buffer or its start lies beyond its end (R100, R101). -/
def Obligations.ExtractReadsTheWholeRange : Prop :=
  ∀ (r : Region) (buf : List Byte),
    (r.start ≤ r.stop ∧ r.stop ≤ buf.length →
      ∃ s, extract r buf = .ok s ∧ s.length = r.stop - r.start
        ∧ ∀ i, i < r.stop - r.start → s[i]? = buf[r.start + i]?)
    ∧ (¬ (r.start ≤ r.stop ∧ r.stop ≤ buf.length) →
      extract r buf = .error (.regionOutOfBounds r.start r.stop buf.length))

/-- Each conversion validates the length of its slice, then reads its bytes in the order its name says (R102 to R104). -/
def Obligations.ConversionsValidateTheLength : Prop :=
  (∀ a : Byte, toU8 [a] = .ok a)
  ∧ (∀ s : List Byte, s.length ≠ 1 → toU8 s = .error (.regionOutOfBounds 0 1 s.length))
  ∧ (∀ a b : Byte, (∃ v, toU16le [a, b] = .ok v ∧ v.toNat = a.toNat + 256 * b.toNat)
      ∧ (∃ v, toU16be [a, b] = .ok v ∧ v.toNat = 256 * a.toNat + b.toNat))
  ∧ (∀ s : List Byte, s.length ≠ 2 →
      toU16le s = .error (.regionOutOfBounds 0 2 s.length) ∧ toU16be s = .error (.regionOutOfBounds 0 2 s.length))
  ∧ (∀ (n : Nat) (s : List Byte), s.length = n → toArray n s = .ok s)
  ∧ (∀ (n : Nat) (s : List Byte), s.length ≠ n → toArray n s = .error (.regionOutOfBounds 0 n s.length))

/-- The checksum of a ROM that holds the range is `(−(S + 25)) mod 256` with `S` the sum of the 25 bytes, its accumulator
lies in [−6400, −25], and a shorter ROM is a bounds error (R129). -/
def Obligations.HeaderChecksumFormula : Prop :=
  ∀ buf : List Byte,
    (0x14D ≤ buf.length →
      ∃ c, computedChecksum buf = .ok c
        ∧ (c.toNat : Int) = (-((((buf.drop 0x134).take 25).map BitVec.toNat).sum + 25 : Int)) % 256
        ∧ -6400 ≤ checksumAcc ((buf.drop 0x134).take 25) ∧ checksumAcc ((buf.drop 0x134).take 25) ≤ -25)
    ∧ (buf.length < 0x14D → computedChecksum buf = .error (.regionOutOfBounds 0x134 0x14D buf.length))

/-- The title of `n` bytes has at most `n` characters and at least a quarter as many, ASCII bytes are kept one by one,
and a byte that begins no sequence becomes one U+FFFD (R122). -/
def Obligations.TitleTextLength : Prop :=
  ∀ bs : List Byte,
    (utf8Lossy bs).length ≤ bs.length ∧ bs.length ≤ 4 * (utf8Lossy bs).length
    ∧ ((∀ b ∈ bs, b.toNat ≤ 0x7F) → utf8Lossy bs = bs.map fun b => Char.ofNat b.toNat)
    ∧ (∀ b : Byte, (0x80 ≤ b.toNat ∧ b.toNat ≤ 0xC1) ∨ 0xF5 ≤ b.toNat →
        utf8Lossy (b :: bs) = Char.ofNat 0xFFFD :: utf8Lossy bs)

/-- Well-formed UTF-8 decodes to its characters: the title's decoding inverts the library's encoding of every text
(R122; the byte ranges are the spec's general knowledge, log 12). -/
def Obligations.TitleDecodesWellFormedText : Prop :=
  ∀ cs : Text, utf8Lossy (cs.flatMap utf8Bytes) = cs
end

