-- ==== Sys2Proof/Laws/Region.lean ====
section
/-! SUPPORT. What a region read answers, said once. -/

namespace Sys2Proof

/-- A region inside the buffer is read whole (R100). -/
theorem extract_ok {r : Region} {buf : List Byte} (h1 : r.start ≤ r.stop) (h2 : r.stop ≤ buf.length) :
    extract r buf = .ok ((buf.drop r.start).take (r.stop - r.start)) := by
  have : ¬ (r.stop < r.start ∨ buf.length < r.stop) := by omega
  simp [extract, this]

/-- A region that ends beyond the buffer is a bounds error (R100). -/
theorem extract_short {r : Region} {buf : List Byte} (h : buf.length < r.stop) :
    extract r buf = .error (.regionOutOfBounds r.start r.stop buf.length) := by
  simp [extract, h]

/-- A single-byte read inside the buffer. -/
theorem byteAt_ok {buf : List Byte} {i : Nat} (h : i < buf.length) : byteAt buf i = .ok buf[i] := by
  have h1 : extract ⟨i, i + 1, .byte⟩ buf = .ok [buf[i]] := by
    rw [extract_ok (by simp) (by simpa using h)]
    simp only [List.drop_eq_getElem_cons h, Nat.add_sub_cancel_left, List.take_succ_cons, List.take_zero]
  simp [byteAt, h1, toU8]

/-- A single-byte read beyond the buffer (R162). -/
theorem byteAt_short {buf : List Byte} {i : Nat} (h : buf.length ≤ i) :
    byteAt buf i = .error (.regionOutOfBounds i (i + 1) buf.length) := by
  have h1 : extract ⟨i, i + 1, .byte⟩ buf = .error (.regionOutOfBounds i (i + 1) buf.length) :=
    extract_short (by simpa using Nat.lt_succ_of_le h)
  simp [byteAt, h1]

/-- The two outcomes of a single-byte read. -/
theorem byteAt_cases (buf : List Byte) (i : Nat) :
    (∃ b, buf[i]? = some b ∧ byteAt buf i = .ok b)
      ∨ (buf.length ≤ i ∧ byteAt buf i = .error (.regionOutOfBounds i (i + 1) buf.length)) := by
  by_cases h : i < buf.length
  · exact .inl ⟨buf[i], by simp [h], byteAt_ok h⟩
  · exact .inr ⟨by omega, byteAt_short (by omega)⟩

@[simp] theorem byteAt_nil (i : Nat) : byteAt [] i = .error (.regionOutOfBounds i (i + 1) 0) :=
  byteAt_short (by simp)

@[simp] theorem byteAt_cons_zero (b : Byte) (bs : List Byte) : byteAt (b :: bs) 0 = .ok b :=
  byteAt_ok (by simp)

/-- A displacement inside the buffer (R166). -/
theorem dispAt_ok {buf : List Byte} {i : Nat} (h : i < buf.length) : dispAt buf i = .ok (sext8 buf[i]) := by
  simp [dispAt, byteAt_ok h]

/-- A displacement beyond the buffer (R166, R169). -/
theorem dispAt_short {buf : List Byte} {i : Nat} (h : buf.length ≤ i) :
    dispAt buf i = .error (.regionOutOfBounds i (i + 1) buf.length) := by
  simp [dispAt, byteAt_short h]

/-- An immediate inside the window is assembled from its bytes (R167). -/
theorem immAt_ok {w : List Byte} {pos : Nat} {k : Fin 3} (h : pos + k.val ≤ w.length) :
    immAt w pos k = .ok (assembleImm ((w.drop pos).take k.val)) := by
  have h1 : extract ⟨pos, pos + k.val, .array k.val⟩ w = .ok ((w.drop pos).take k.val) := by
    rw [extract_ok (by simp) (by simpa using h)]; simp
  simp [immAt, h1]

/-- An immediate that the window does not hold fails as a whole (R167). -/
theorem immAt_short {w : List Byte} {pos : Nat} {k : Fin 3} (h : w.length < pos + k.val) :
    immAt w pos k = .error (.regionOutOfBounds pos (pos + k.val) w.length) := by
  have h1 : extract ⟨pos, pos + k.val, .array k.val⟩ w = .error (.regionOutOfBounds pos (pos + k.val) w.length) :=
    extract_short (by simpa using h)
  simp [immAt, h1]

/-- The opcode stage's lookup, where the table has an entry. -/
theorem entryFor_some {T : OpTable} {ctx : Ctx} {b : Byte} {e : Entry} (h : T.lookup ctx.table b = some e) :
    entryFor T ctx b = .ok e := by
  simp [entryFor, h]

/-- The opcode stage's lookup, where the table has none (R203). -/
theorem entryFor_none {T : OpTable} {ctx : Ctx} {b : Byte} (h : T.lookup ctx.table b = none) :
    entryFor T ctx b = .error (.unknownOpcode b ctx) := by
  simp [entryFor, h]

/-- The width of an assembled immediate is the number of bytes it was assembled from, up to two. -/
theorem assembleImm_width (s : List Byte) (h : s.length ≤ 2) : (assembleImm s).width = s.length := by
  match s, h with
  | [], _ => rfl
  | [_], _ => rfl
  | [_, _], _ => rfl

@[simp] theorem assembleImm_bytes (imm : ImmBytes) : (assembleImm imm.bytes).toBytes = imm := by
  cases imm <;> rfl

@[simp] theorem ImmBytes.length_bytes (imm : ImmBytes) : imm.bytes.length = imm.width := by
  cases imm <;> rfl

end Sys2Proof
end

