-- ==== Sys2Proof/Laws/Tables.lean ====
section
/-! SUPPORT. What the tables answer: the three entries the source fixes, and what a well-formed OPTABLE says of an
entry that is looked up. -/

namespace Sys2Proof

/-- R84 for every table. -/
@[simp] theorem OpTable.lookup_nop (T : OpTable) :
    T.lookup .main 0x00 = some { name := nopName, imm := 0, idxrel := false } := by
  simp [OpTable.lookup, OpTable.entryAt]

/-- R85 for every table. -/
@[simp] theorem OpTable.lookup_cb00 (T : OpTable) :
    T.lookup .cb 0x00 = some { name := T.cb00Name, imm := 0, idxrel := false } := by
  simp [OpTable.lookup, OpTable.entryAt]

/-- R86 for every table. -/
@[simp] theorem OpTable.lookup_idx09 (T : OpTable) :
    T.lookup .idx 0x09 = some { name := T.idx09Name, imm := 0, idxrel := false } := by
  simp [OpTable.lookup, OpTable.entryAt]

/-- One table's check says that every byte's entry in force is allowed. -/
theorem OpTable.tableOk_iff (T : OpTable) (t : Table) :
    T.tableOk t = true ↔ ∀ b : Byte, entryOk t b (T.lookup t b) = true := by
  simp only [OpTable.tableOk, List.all_eq_true]
  constructor
  · intro h b
    have hb : b.toNat < 256 := b.isLt
    have hmem : ((T.rows t)[b.toNat]'hb, b.toNat) ∈ (T.rows t).toList.zipIdx := by
      rw [List.mem_zipIdx_iff_getElem?]; simp
    simpa [OpTable.lookup] using h _ hmem
  · rintro h ⟨x, i⟩ hmem
    rw [List.mem_zipIdx_iff_getElem?] at hmem
    obtain ⟨hi, hx⟩ := List.getElem?_eq_some_iff.1 hmem
    have hi' : i < 256 := by simpa using hi
    have hn : (BitVec.ofNat 8 i).toNat = i := by simp [Nat.mod_eq_of_lt hi']
    have := h (BitVec.ofNat 8 i)
    simp only [OpTable.lookup, hn] at this
    rw [← hx]; simpa using this

/-- The check of the whole OPTABLE says so of all five tables (R81 to R83). -/
theorem OpTable.wf_iff (T : OpTable) :
    T.wf = true ↔ ∀ (t : Table) (b : Byte), entryOk t b (T.lookup t b) = true := by
  simp only [OpTable.wf, Bool.and_eq_true, OpTable.tableOk_iff]
  constructor
  · rintro ⟨⟨⟨⟨h1, h2⟩, h3⟩, h4⟩, h5⟩ t
    cases t <;> assumption
  · intro h
    exact ⟨⟨⟨⟨h .main, h .cb⟩, h .ed⟩, h .idx⟩, h .idxcb⟩

/-- What a well-formed OPTABLE says of an entry found in it. -/
theorem OpTable.wf_lookup {T : OpTable} (h : T.wf = true) {t : Table} {b : Byte} {e : Entry}
    (he : T.lookup t b = some e) : entryOk t b (some e) = true := by
  have := T.wf_iff.1 h t b
  rwa [he] at this

end Sys2Proof
end

