-- ==== Sys2Proof/Laws/Encoding.lean ====
section
/-! SUPPORT. What the well-formedness of an instruction says of its entry, and the bound of an immediate's width. -/

namespace Sys2Proof

/-- A table fits an immediate exactly where it has an entry of that form and width. -/
theorem OpTable.fits_iff {T : OpTable} {t : Table} {b : Byte} {x : Bool} {imm : ImmBytes} :
    T.fits t b x imm = true ↔ ∃ e, T.lookup t b = some e ∧ e.idxrel = x ∧ e.imm.val = imm.width := by
  unfold OpTable.fits
  cases T.lookup t b <;> simp

theorem ImmBytes.width_le_two (imm : ImmBytes) : imm.width ≤ 2 := by cases imm <;> simp [ImmBytes.width]

/-- An index-relative instruction has at most one immediate byte (R82). -/
theorem OpTable.fits_idxrel {T : OpTable} (hw : T.wf = true) {b : Byte} {imm : ImmBytes}
    (h : T.fits .idx b true imm = true) : imm.width ≤ 1 := by
  obtain ⟨e, he, hx, hk⟩ := OpTable.fits_iff.1 h
  have := T.wf_lookup hw he
  simp [entryOk, hx] at this
  omega

end Sys2Proof
end

