-- ==== Sys2Proof/Laws/State.lean ====
section
/-! SUPPORT. One lemma per field per update of the state, so that no later proof unfolds a record update. -/

namespace Sys2Proof.Machine

@[simp] theorem State.setRom_params (s : State) (m : Memory) : (s.setRom m).params = s.params := rfl
@[simp] theorem State.setRom_rom (s : State) (m : Memory) : (s.setRom m).rom = some m := rfl
@[simp] theorem State.setRom_hdr (s : State) (m : Memory) : (s.setRom m).hdr = s.hdr := rfl
@[simp] theorem State.setRom_st (s : State) (m : Memory) : (s.setRom m).st = s.st := rfl
@[simp] theorem State.setRom_consumer (s : State) (m : Memory) : (s.setRom m).consumer = s.consumer := rfl
@[simp] theorem State.setRom_pending (s : State) (m : Memory) : (s.setRom m).pending = s.pending := rfl
@[simp] theorem State.setRom_out (s : State) (m : Memory) : (s.setRom m).out = s.out := rfl

@[simp] theorem State.setHdr_params (s : State) (h : CartridgeHeader) : (s.setHdr h).params = s.params := rfl
@[simp] theorem State.setHdr_rom (s : State) (h : CartridgeHeader) : (s.setHdr h).rom = s.rom := rfl
@[simp] theorem State.setHdr_hdr (s : State) (h : CartridgeHeader) : (s.setHdr h).hdr = some h := rfl
@[simp] theorem State.setHdr_st (s : State) (h : CartridgeHeader) : (s.setHdr h).st = s.st := rfl
@[simp] theorem State.setHdr_consumer (s : State) (h : CartridgeHeader) : (s.setHdr h).consumer = s.consumer := rfl
@[simp] theorem State.setHdr_pending (s : State) (h : CartridgeHeader) : (s.setHdr h).pending = s.pending := rfl
@[simp] theorem State.setHdr_out (s : State) (h : CartridgeHeader) : (s.setHdr h).out = s.out := rfl

@[simp] theorem State.setStage_params (s : State) (x : Option Stage) : (s.setStage x).params = s.params := rfl
@[simp] theorem State.setStage_rom (s : State) (x : Option Stage) : (s.setStage x).rom = s.rom := rfl
@[simp] theorem State.setStage_hdr (s : State) (x : Option Stage) : (s.setStage x).hdr = s.hdr := rfl
@[simp] theorem State.setStage_st (s : State) (x : Option Stage) : (s.setStage x).st = x := rfl
@[simp] theorem State.setStage_consumer (s : State) (x : Option Stage) : (s.setStage x).consumer = s.consumer := rfl
@[simp] theorem State.setStage_pending (s : State) (x : Option Stage) : (s.setStage x).pending = s.pending := rfl
@[simp] theorem State.setStage_out (s : State) (x : Option Stage) : (s.setStage x).out = s.out := rfl

@[simp] theorem State.setConsumer_params (s : State) (c : Consumer) : (s.setConsumer c).params = s.params := rfl
@[simp] theorem State.setConsumer_rom (s : State) (c : Consumer) : (s.setConsumer c).rom = s.rom := rfl
@[simp] theorem State.setConsumer_hdr (s : State) (c : Consumer) : (s.setConsumer c).hdr = s.hdr := rfl
@[simp] theorem State.setConsumer_st (s : State) (c : Consumer) : (s.setConsumer c).st = s.st := rfl
@[simp] theorem State.setConsumer_consumer (s : State) (c : Consumer) : (s.setConsumer c).consumer = c := rfl
@[simp] theorem State.setConsumer_pending (s : State) (c : Consumer) : (s.setConsumer c).pending = s.pending := rfl
@[simp] theorem State.setConsumer_out (s : State) (c : Consumer) : (s.setConsumer c).out = s.out := rfl

@[simp] theorem State.setPending_params (s : State) (rs : List Request) : (s.setPending rs).params = s.params := rfl
@[simp] theorem State.setPending_rom (s : State) (rs : List Request) : (s.setPending rs).rom = s.rom := rfl
@[simp] theorem State.setPending_hdr (s : State) (rs : List Request) : (s.setPending rs).hdr = s.hdr := rfl
@[simp] theorem State.setPending_st (s : State) (rs : List Request) : (s.setPending rs).st = s.st := rfl
@[simp] theorem State.setPending_consumer (s : State) (rs : List Request) : (s.setPending rs).consumer = s.consumer := rfl
@[simp] theorem State.setPending_pending (s : State) (rs : List Request) : (s.setPending rs).pending = rs := rfl
@[simp] theorem State.setPending_out (s : State) (rs : List Request) : (s.setPending rs).out = s.out := rfl

@[simp] theorem State.respond_params (s : State) (r : Response) : (s.respond r).params = s.params := rfl
@[simp] theorem State.respond_rom (s : State) (r : Response) : (s.respond r).rom = s.rom := rfl
@[simp] theorem State.respond_hdr (s : State) (r : Response) : (s.respond r).hdr = s.hdr := rfl
@[simp] theorem State.respond_st (s : State) (r : Response) : (s.respond r).st = s.st := rfl
@[simp] theorem State.respond_consumer (s : State) (r : Response) : (s.respond r).consumer = s.consumer := rfl
@[simp] theorem State.respond_pending (s : State) (r : Response) : (s.respond r).pending = s.pending := rfl
@[simp] theorem State.respond_out (s : State) (r : Response) : (s.respond r).out = s.out ++ [r] := rfl

@[simp] theorem State.raise_params (s : State) (e : DecodeError) : (s.raise e).params = s.params := rfl
@[simp] theorem State.raise_rom (s : State) (e : DecodeError) : (s.raise e).rom = s.rom := rfl
@[simp] theorem State.raise_hdr (s : State) (e : DecodeError) : (s.raise e).hdr = s.hdr := rfl
@[simp] theorem State.raise_st (s : State) (e : DecodeError) : (s.raise e).st = s.st := rfl
@[simp] theorem State.raise_consumer (s : State) (e : DecodeError) : (s.raise e).consumer = s.consumer := rfl
@[simp] theorem State.raise_pending (s : State) (e : DecodeError) : (s.raise e).pending = s.pending := rfl
@[simp] theorem State.raise_out (s : State) (e : DecodeError) : (s.raise e).out = s.out ++ [.err e] := rfl

@[simp] theorem State.advance_params (s : State) (n : Nat) : (s.advance n).params = s.params := rfl
@[simp] theorem State.advance_rom (s : State) (n : Nat) : (s.advance n).rom = s.rom := rfl
@[simp] theorem State.advance_hdr (s : State) (n : Nat) : (s.advance n).hdr = s.hdr := rfl
@[simp] theorem State.advance_st (s : State) (n : Nat) : (s.advance n).st = s.st := rfl
@[simp] theorem State.advance_consumer (s : State) (n : Nat) : (s.advance n).consumer = { s.consumer with pc := s.consumer.pc + n } := rfl
@[simp] theorem State.advance_pending (s : State) (n : Nat) : (s.advance n).pending = s.pending := rfl
@[simp] theorem State.advance_out (s : State) (n : Nat) : (s.advance n).out = s.out := rfl

@[simp] theorem State.setStage_setStage (s : State) (x y : Option Stage) :
    (s.setStage x).setStage y = s.setStage y := rfl

@[simp] theorem State.applyPolicy_params (s : State) : s.applyPolicy.params = s.params := by
  unfold State.applyPolicy; split <;> rfl

@[simp] theorem State.applyPolicy_rom (s : State) : s.applyPolicy.rom = s.rom := by
  unfold State.applyPolicy; split <;> rfl

@[simp] theorem State.applyPolicy_hdr (s : State) : s.applyPolicy.hdr = s.hdr := by
  unfold State.applyPolicy; split <;> rfl

@[simp] theorem State.applyPolicy_st (s : State) : s.applyPolicy.st = s.st := by
  unfold State.applyPolicy; split <;> rfl

@[simp] theorem State.applyPolicy_pending (s : State) : s.applyPolicy.pending = s.pending := by
  unfold State.applyPolicy; split <;> rfl

@[simp] theorem State.applyPolicy_out (s : State) : s.applyPolicy.out = s.out := by
  unfold State.applyPolicy; split <;> rfl

@[simp] theorem State.applyPolicy_code (s : State) : s.applyPolicy.consumer.code = s.consumer.code := by
  unfold State.applyPolicy; split <;> rfl

@[simp] theorem State.applyPolicy_policy (s : State) : s.applyPolicy.consumer.policy = s.consumer.policy := by
  unfold State.applyPolicy; split <;> rfl

end Sys2Proof.Machine
end

