-- ==== Sys2Proof/Laws/Exec.lean ====
section
/-! SUPPORT. What the shared operations can do, said once: the end of a fetch-decode step, the decode transaction on
the stage register, a request, and a step. -/

namespace Sys2Proof.Machine

/-- The response an instruction's meaning gives to its own decode. -/
def responseOf (T : OpTable) : Instr → Except DecodeError DecodedInstruction
  | .main op imm => formMain T (encode (.main op imm))
  | .cb op imm => formCb T (encode (.cb op imm))
  | .ed op imm => formEd T (encode (.ed op imm))
  | .dd op imm => formIdx T .dd (encode (.dd op imm))
  | .fd op imm => formIdx T .fd (encode (.fd op imm))
  | .ddIdx op d imm => formIdxD T .dd (encode (.ddIdx op d imm))
  | .fdIdx op d imm => formIdxD T .fd (encode (.fdIdx op d imm))
  | .ddcb d op => formIdxCb T .dd (encode (.ddcb d op))
  | .fdcb d op => formIdxCb T .fd (encode (.fdcb d op))
  | .nop => .ok { ctx := .none, opcode := 0x00, name := nopName, disp := none, imm := .imm0, length := 1 }
  | .cb00 => .ok { ctx := .cb, opcode := 0x00, name := T.cb00Name, disp := none, imm := .imm0, length := 2 }
  | .dd09 => .ok { ctx := .dd, opcode := 0x09, name := T.idx09Name, disp := none, imm := .imm0, length := 2 }
  | .unknownPrefix _ q => .error (.unknownPrefix q)

/-- Every meaning is the end of a fetch-decode step with its form's response. -/
theorem exec_eq (i : Instr) (s : State) : exec i s = s.consumerDecode (responseOf s.params.optable i) := by
  cases i <;> rfl

/-- The decode of the Consumer answers a next state exactly under a well-formed OPTABLE, and then the one state. -/
theorem consumerDecode_next_iff (s t : State) (resp : Except DecodeError DecodedInstruction) :
    s.consumerDecode resp = .next t ↔ s.params.optable.wf = true ∧ t = s.finishDecode resp := by
  unfold State.consumerDecode
  split
  · rename_i h; simp [h, eq_comm]
  · rename_i h; simp [h]

/-- Inversion of a meaning that answers a next state. -/
theorem exec_next_iff (i : Instr) (s t : State) :
    exec i s = .next t ↔
      s.params.optable.wf = true ∧ t = s.finishDecode (responseOf s.params.optable i) := by
  rw [exec_eq, consumerDecode_next_iff]

@[simp] theorem finishDecode_params (s : State) (resp) : (s.finishDecode resp).params = s.params := by
  cases resp <;> simp [State.finishDecode]

@[simp] theorem finishDecode_rom (s : State) (resp) : (s.finishDecode resp).rom = s.rom := by
  cases resp <;> simp [State.finishDecode]

@[simp] theorem finishDecode_hdr (s : State) (resp) : (s.finishDecode resp).hdr = s.hdr := by
  cases resp <;> simp [State.finishDecode]

@[simp] theorem finishDecode_st (s : State) (resp) : (s.finishDecode resp).st = none := by
  cases resp <;> simp [State.finishDecode]

@[simp] theorem finishDecode_pending (s : State) (resp) : (s.finishDecode resp).pending = s.pending := by
  cases resp <;> simp [State.finishDecode]

/-- The one response a fetch-decode step gives. -/
def decodeResponse : Except DecodeError DecodedInstruction → Response
  | .ok r => .decoded r
  | .error e => .err e

@[simp] theorem finishDecode_out (s : State) (resp) :
    (s.finishDecode resp).out = s.out ++ [decodeResponse resp] := by
  cases resp <;> simp [State.finishDecode, decodeResponse]

/-- The stage register runs as the stages do: after `k` transitions it holds the stage `k` transitions lead to. -/
theorem stageSteps_eq (w : List Byte) (k : Nat) (s : State) (st : Stage) :
    State.stageSteps w k (s.setStage (some st)) =
      s.setStage (some (Stage.run s.params.optable w k st)) := by
  induction k generalizing st with
  | zero => rfl
  | succ k ih => exact ih (st.next s.params.optable w)

/-- Inversion of a request that answers a next state: what it wrote and the one response it gave. -/
theorem serve_next {r : Request} {s t : State} (h : serve r s = .next t) :
    (∃ bs, r = .load (some bs) ∧ s.rom = none ∧ t = (s.setRom (Memory.ofBytes bs)).respond .loaded)
    ∨ (∃ m mem hd, r = .construct m ∧ s.rom = some mem ∧
        constructHeader m s.params.components (Memory.bytes mem) = .ok hd ∧
        t = (s.setHdr hd).respond (.constructed hd))
    ∨ (∃ w, r = .decode w ∧ s.params.optable.wf = true ∧
        t = (s.setStage none).respond (decodeResponse (s.decodeRequest w).1))
    ∨ (∃ c pc p, r = .consume c pc p ∧
        t = s.setConsumer { code := c, pc := pc, policy := p, running := true })
    ∨ (∃ a, (∀ x, a ≠ .decoded x) ∧ t = s.respond a) := by
  have query : ∀ f : CartridgeHeader → Response, (∀ hd x, f hd ≠ .decoded x) →
      serveQuery f s = .next t → ∃ a, (∀ x, a ≠ .decoded x) ∧ t = s.respond a := by
    intro f hf hq
    unfold serveQuery at hq
    split at hq
    · cases hq
    · injection hq with hq; exact ⟨_, hf _, hq.symm⟩
  cases r with
  | load src =>
    simp only [serve, serveLoad] at h
    split at h
    · cases h
    · rename_i hr
      split at h
      · injection h with h; exact .inl ⟨_, rfl, hr, h.symm⟩
      · injection h with h
        exact .inr (.inr (.inr (.inr ⟨.ioError, by simp, h.symm⟩)))
  | construct m =>
    simp only [serve, serveConstruct] at h
    split at h
    · cases h
    · rename_i mem hr
      split at h
      · rename_i hd hc
        injection h with h; exact .inr (.inl ⟨m, mem, hd, rfl, hr, hc, h.symm⟩)
      · rename_i e _
        injection h with h
        exact .inr (.inr (.inr (.inr ⟨.err e, by simp, h.symm⟩)))
  | decode w =>
    simp only [serve, serveDecode] at h
    split at h
    · rename_i hw
      refine .inr (.inr (.inl ⟨w, rfl, hw, ?_⟩))
      have hs : (s.decodeRequest w).2 = s.setStage none := by
        simp [State.decodeRequest, stageSteps_eq]
      split at h <;> rename_i hr <;> injection h with h <;> rw [← h, hs, hr] <;> rfl
    · cases h
  | consume c pc p =>
    simp only [serve, serveConsume] at h
    injection h with h; exact .inr (.inr (.inr (.inl ⟨c, pc, p, rfl, h.symm⟩)))
  | title => exact .inr (.inr (.inr (.inr (query _ (by simp) h))))
  | components => exact .inr (.inr (.inr (.inr (query _ (by simp) h))))
  | hasComponent c => exact .inr (.inr (.inr (.inr (query _ (by simp) h))))
  | isColorMode => exact .inr (.inr (.inr (.inr (query _ (by simp) h))))
  | isSuperMode => exact .inr (.inr (.inr (.inr (query _ (by simp) h))))
  | romCapacity => exact .inr (.inr (.inr (.inr (query _ (by simp) h))))
  | ramCapacity => exact .inr (.inr (.inr (.inr (query _ (by simp) h))))
  | headerChecksumOk => exact .inr (.inr (.inr (.inr (query _ (by simp) h))))

/-- Inversion of the Consumer's step that answers a next state. -/
theorem consumerStep_next {s t : State} (h : consumerStep s = .next t) :
    ∃ w resp, s.fetchWindow = some w ∧ s.params.optable.wf = true ∧ t = s.finishDecode resp := by
  unfold consumerStep at h
  split at h
  · cases h
  · rename_i w hw
    split at h
    · obtain ⟨h1, h2⟩ := (exec_next_iff _ _ _).1 h
      exact ⟨w, _, hw, h1, h2⟩
    · obtain ⟨h1, h2⟩ := (consumerDecode_next_iff _ _ _).1 h
      exact ⟨w, _, hw, h1, h2⟩

/-- Inversion of a step that answers a next state. -/
theorem step_next {s t : State} (h : step s = .next t) :
    (∃ r rest, s.pending = r :: rest ∧ serve r (s.setPending rest) = .next t)
    ∨ (s.pending = [] ∧ s.consumer.running = true ∧ consumerStep s = .next t)
    ∨ (s.pending = [] ∧ s.consumer.running = false ∧ t = s) := by
  unfold step at h
  split at h
  · rename_i r rest hp; exact .inl ⟨r, rest, hp, h⟩
  · rename_i hp
    by_cases hr : s.consumer.running = true
    · simp only [hr, if_true] at h; exact .inr (.inl ⟨hp, hr, h⟩)
    · simp only [hr] at h; injection h with h
      exact .inr (.inr ⟨hp, by simpa using hr, h.symm⟩)

end Sys2Proof.Machine
end

