-- ==== Sys2Proof/Laws/Memory.lean ====
section
/-! SUPPORT. The laws of the ROM Store's memory: LOAD's one write is in canonical form and holds the bytes written at
their addresses. -/

namespace Sys2Proof.Machine

@[simp] theorem Memory.bytes_ofBytesFrom (a : Nat) (bs : List Byte) :
    Memory.bytes (Memory.ofBytesFrom a bs) = bs := by
  induction bs generalizing a with
  | nil => rfl
  | cons b bs ih => simpa [Memory.ofBytesFrom, Memory.bytes] using ih (a + 1)

@[simp] theorem Memory.bytes_ofBytes (bs : List Byte) : Memory.bytes (Memory.ofBytes bs) = bs :=
  Memory.bytes_ofBytesFrom 0 bs

@[simp] theorem Memory.size_ofBytesFrom (a : Nat) (bs : List Byte) :
    Memory.size (Memory.ofBytesFrom a bs) = bs.length := by
  induction bs generalizing a with
  | nil => rfl
  | cons b bs ih => simpa [Memory.ofBytesFrom, Memory.size] using ih (a + 1)

@[simp] theorem Memory.size_ofBytes (bs : List Byte) : Memory.size (Memory.ofBytes bs) = bs.length :=
  Memory.size_ofBytesFrom 0 bs

theorem Memory.addresses_ofBytesFrom (a : Nat) (bs : List Byte) :
    (Memory.ofBytesFrom a bs).map Prod.fst = List.range' a bs.length := by
  induction bs generalizing a with
  | nil => rfl
  | cons b bs ih => simp [Memory.ofBytesFrom, ih, List.range'_succ]

/-- LOAD's write is in canonical form. -/
theorem Memory.wf_ofBytes (bs : List Byte) : Memory.wf (Memory.ofBytes bs) = true := by
  have hlen : (Memory.ofBytesFrom 0 bs).length = bs.length := Memory.size_ofBytesFrom 0 bs
  simp [Memory.wf, Memory.ofBytes, Memory.addresses_ofBytesFrom, hlen, List.range_eq_range']

theorem Memory.read_ofBytesFrom_lt (a k : Nat) (bs : List Byte) (h : a < k) :
    Memory.read (Memory.ofBytesFrom k bs) a = none := by
  induction bs generalizing k with
  | nil => rfl
  | cons b bs ih =>
    have hk : k ≠ a := by omega
    simp [Memory.ofBytesFrom, Memory.read, hk, ih (k + 1) (by omega)]

theorem Memory.read_ofBytesFrom (k : Nat) (bs : List Byte) (i : Nat) :
    Memory.read (Memory.ofBytesFrom k bs) (k + i) = bs[i]? := by
  induction bs generalizing k i with
  | nil => rfl
  | cons b bs ih =>
    cases i with
    | zero => simp [Memory.ofBytesFrom, Memory.read]
    | succ i =>
      have hk : k ≠ k + (i + 1) := by omega
      have := ih (k + 1) i
      simp only [Memory.ofBytesFrom, Memory.read, hk, if_false, List.getElem?_cons_succ]
      rw [← this]; congr 1; omega

/-- Reading an address after LOAD gives the byte written there; beyond the end there is none. -/
theorem Memory.read_ofBytes (bs : List Byte) (a : Nat) : Memory.read (Memory.ofBytes bs) a = bs[a]? := by
  simpa [Memory.ofBytes] using Memory.read_ofBytesFrom 0 bs a

/-- The reset state's ROM Store holds no memory, so its memory is in canonical form. -/
theorem Memory.wf_reset (m : Memory) (h : State.reset.rom = some m) : Memory.wf m = true := by
  simp [State.reset] at h

end Sys2Proof.Machine
end

