-- ==== Sys2Proof/Laws/PerInstr.lean ====
section
/-! SUPPORT. The statements made of every instruction, one lemma per constructor. -/

namespace Sys2Proof.Laws.EncodedLength

/-- A well-formed instruction occupies one to four bytes of the code stream (R8, R80). -/
def Statement (i : Instr) : Prop :=
  ∀ T : OpTable, T.wf = true → i.wf T = true → 1 ≤ (encode i).length ∧ (encode i).length ≤ 4

theorem main (op : Byte) (imm : ImmBytes) : Statement (.main op imm) := by
  intro T _ _; have := imm.width_le_two; simp [encode]; omega

theorem cb (op : Byte) (imm : ImmBytes) : Statement (.cb op imm) := by
  intro T _ _; have := imm.width_le_two; simp [encode]; omega

theorem ed (op : Byte) (imm : ImmBytes) : Statement (.ed op imm) := by
  intro T _ _; have := imm.width_le_two; simp [encode]; omega

theorem dd (op : Byte) (imm : ImmBytes) : Statement (.dd op imm) := by
  intro T _ _; have := imm.width_le_two; simp [encode]; omega

theorem fd (op : Byte) (imm : ImmBytes) : Statement (.fd op imm) := by
  intro T _ _; have := imm.width_le_two; simp [encode]; omega

theorem ddIdx (op d : Byte) (imm : ImmBytes) : Statement (.ddIdx op d imm) := by
  intro T hT hi
  have := OpTable.fits_idxrel hT (by simpa [Instr.wf] using (Bool.and_eq_true _ _ ▸ hi).2)
  simp [encode]; omega

theorem fdIdx (op d : Byte) (imm : ImmBytes) : Statement (.fdIdx op d imm) := by
  intro T hT hi
  have := OpTable.fits_idxrel hT (by simpa [Instr.wf] using (Bool.and_eq_true _ _ ▸ hi).2)
  simp [encode]; omega

theorem ddcb (d op : Byte) : Statement (.ddcb d op) := by intro T _ _; simp [encode]

theorem fdcb (d op : Byte) : Statement (.fdcb d op) := by intro T _ _; simp [encode]

theorem nop : Statement .nop := by intro T _ _; simp [encode]

theorem cb00 : Statement .cb00 := by intro T _ _; simp [encode]

theorem dd09 : Statement .dd09 := by intro T _ _; simp [encode]

theorem unknownPrefix (p : IdxPrefix) (q : Byte) : Statement (.unknownPrefix p q) := by
  intro T _ _; simp [encode]

end Sys2Proof.Laws.EncodedLength
end

