-- ==== Sys2Proof/Tests/Fixtures.lean ====
section
/-! SUPPORT. The data of the spec's own test vectors (95_test_vectors.md): TEST_TABLE, the ROM images H1 and H2, and
states built from them. -/

namespace Sys2Proof.Tests

open Sys2Proof.Machine

/-- An entry. -/
def row (name : Name) (imm : Fin 3) (idxrel : Bool) : Option Entry := some { name := name, imm := imm, idxrel := idxrel }

/-- A table without an entry. -/
def noRows : Vector (Option Entry) 256 := Vector.replicate 256 none

/-- The CB rows: every byte `xx` has the name `t.CB.xx`, width 0. -/
def cbRows : Vector (Option Entry) 256 :=
  ⟨((List.range 256).map fun n =>
      some { name := "t.CB." ++ String.ofList (hexDigits 2 n), imm := 0, idxrel := false }).toArray, by simp⟩

/-- TEST_TABLE (95_test_vectors.md section 1). -/
def testTable : OpTable where
  cb00Name := "t.CB.00"
  idx09Name := "t.IDX.09"
  main :=
    ((((noRows.set 0x01 (row "t.MAIN.01" 2 false)).set 0x3E (row "t.MAIN.3E" 1 false)).set
      0x76 (row "t.MAIN.76" 0 false)).set 0xC3 (row "t.MAIN.C3" 2 false)).set 0xFF (row "t.MAIN.FF" 2 false)
  cb := cbRows
  ed := (noRows.set 0x43 (row "t.ED.43" 2 false)).set 0x44 (row "t.ED.44" 0 false)
  idx :=
    (((noRows.set 0x21 (row "t.IDX.21" 2 false)).set 0x36 (row "t.IDX.36" 1 true)).set
      0x7E (row "t.IDX.7E" 0 true)).set 0xE9 (row "t.IDX.E9" 0 false)
  idxcb :=
    ((noRows.set 0x06 (row "t.IDXCB.06" 0 false)).set 0x46 (row "t.IDXCB.46" 0 false)).set
      0xCB (row "t.IDXCB.CB" 0 false)

/-- A table that breaks R81: an index-relative entry in MAIN. -/
def badTable81 : OpTable := { testTable with main := noRows.set 0x3E (row "x" 1 true) }

/-- A table that breaks R82: a displacement and a 2-byte immediate would be five bytes. -/
def badTable82 : OpTable := { testTable with idx := noRows.set 0x36 (row "x" 2 true) }

/-- A table that breaks R82: an immediate in IDXCB. -/
def badTable82cb : OpTable := { testTable with idxcb := noRows.set 0x06 (row "x" 1 false) }

/-- A table that breaks R83: an entry at a prefix byte of MAIN. -/
def badTable83 : OpTable := { testTable with main := noRows.set 0xED (row "x" 0 false) }

/-- A component table: one admissible value of the open parameter, whose open missing code is `0x1F`. -/
def testComponents : ComponentTable where
  missing := 29
  lists := Vector.replicate 33 [.rom]

/-- The parameters of the vectors. -/
def testParams : Params := { optable := testTable, components := testComponents }

/-- A Consumer at a cursor of a code buffer, stopping on an error. -/
def consumerAt (code : List Byte) (pc : Nat) : Consumer :=
  { code := .bytes code, pc := pc, policy := .stop, running := true }

/-- A state under TEST_TABLE whose Consumer decodes `code` from `pc`. -/
def codeState (code : List Byte) (pc : Nat) : State :=
  { State.reset with params := testParams, consumer := consumerAt code pc }

/-- The same under another OPTABLE. -/
def underTable (s : State) (T : OpTable) : State := { s with params := { s.params with optable := T } }

/-- A state with one request waiting and the given stores. -/
def portState (rom : Option (List Byte)) (hdr : Option CartridgeHeader) (r : Request) : State :=
  { State.reset with params := testParams, rom := rom.map Memory.ofBytes, hdr := hdr, pending := [r] }

/-- What a step leaves for a reader: the responses and the cursor; none where it stops. -/
def seen (o : Host.Outcome State Fault Refusal) : Option (List Response × Nat) :=
  match o with
  | .next t => some (t.out, t.consumer.pc)
  | .fault _ => none
  | .refused _ => none

/-- The fault an outcome is, none for any other outcome. -/
def faultOf (o : Host.Outcome State Fault Refusal) : Option Fault :=
  match o with
  | .next _ => none
  | .fault f => some f
  | .refused _ => none

/-- An outcome that leaves something to see is a next state. -/
theorem next_of_seen {o : Host.Outcome State Fault Refusal} (h : (seen o).isSome = true) : ∃ t, o = .next t := by
  cases o with
  | next t => exact ⟨t, rfl⟩
  | fault f => cases h
  | refused f => cases h

/-- The bytes `0x134` to `0x14C` of H1 (95_test_vectors.md section 4.2). -/
def h1Range : List Byte :=
  [0x54, 0x45, 0x54, 0x52, 0x49, 0x53, 0, 0, 0, 0, 0, 0, 0, 0, 0, 0] ++
    [0x30, 0x31, 0x00, 0x03, 0x01, 0x02, 0x01, 0x33, 0x00]

/-- The bytes `0x134` to `0x14C` of H2. -/
def h2Range : List Byte :=
  [0x47, 0x42, 0x43, 0x20, 0x54, 0x45, 0x53, 0x54, 0, 0, 0, 0, 0, 0, 0, 0x80] ++
    [0x00, 0x00, 0x03, 0x03, 0x00, 0x00, 0x00, 0x00, 0x00]

/-- A ROM of length `0x150` with these 25 bytes at `0x134` and this byte at `0x14D`. -/
def romOf (range : List Byte) (stored : Byte) : List Byte :=
  List.replicate 0x134 0 ++ range ++ [stored, 0, 0]

/-- H1. -/
def romH1 : List Byte := romOf h1Range 0x71

/-- H2. -/
def romH2 : List Byte := romOf h2Range 0x35

/-- A run of NUL characters. -/
def nuls (n : Nat) : Text := List.replicate n (Char.ofNat 0)

/-- The header `h1` of H-CTOR-1. -/
def headerH1 : CartridgeHeader where
  title := "TETRIS".toList ++ nuls 10
  components := [.rom .rom64K, .mbc .mbc1, .ram .ram8K, .battery]
  romCapacity := .rom64K
  ramCapacity := .ram8K
  isColorMode := false
  isSuperMode := false
  headerChecksumOk := true

/-- The header `h2` of H-CTOR-4. -/
def headerH2 : CartridgeHeader where
  title := "GBC TEST".toList ++ nuls 7 ++ [Char.ofNat 0xFFFD]
  components := [.rom .rom32K, .mbc .mbc1, .ram .ramNone, .battery]
  romCapacity := .rom32K
  ramCapacity := .ramNone
  isColorMode := true
  isSuperMode := true
  headerChecksumOk := true

end Sys2Proof.Tests
end

