-- ==== Sys2Proof/Tests/Slice0.lean ====
section
/-! SUPPORT. The model's own tests. Every expected value comes from 95_test_vectors.md (the id of the vector is named) or
is worked out by hand from the rule named. The vectors are evaluated under TEST_TABLE. -/

set_option Elab.async false

namespace Sys2Proof.Tests

open Sys2Proof.Machine

/-! ### Well-formedness refuses -/

/-- A prefix byte is no unprefixed opcode (R71). -/
theorem test_wf_refuses_prefix_opcode :
    (Instr.main 0xCB .none).wf OpTable.probe = false ∧ (Instr.main 0xDD .none).wf OpTable.probe = false
    ∧ (Instr.main 0xED .none).wf OpTable.probe = false ∧ (Instr.main 0xFD .none).wf OpTable.probe = false := by decide +kernel

/-- A prefix byte is no index opcode (R71). -/
theorem test_wf_refuses_prefix_index_opcode :
    (Instr.dd 0xCB .none).wf OpTable.probe = false ∧ (Instr.fd 0xED .none).wf OpTable.probe = false
    ∧ (Instr.ddIdx 0xFD 0 .none).wf OpTable.probe = false ∧ (Instr.fdIdx 0xDD 0 .none).wf OpTable.probe = false := by
  decide +kernel

/-- `00`, `CB 00` and `DD 09` are spelt by their own constructors only; `FD 09` has none of its own. -/
theorem test_wf_refuses_second_spelling :
    (Instr.main 0x00 .none).wf testTable = false ∧ (Instr.cb 0x00 .none).wf testTable = false
    ∧ (Instr.dd 0x09 .none).wf testTable = false ∧ (Instr.fd 0x09 .none).wf testTable = true := by decide +kernel

/-- An opcode without an entry (R203). -/
theorem test_wf_refuses_missing_entry :
    (Instr.main 0x02 .none).wf testTable = false ∧ (Instr.ed 0x00 .none).wf testTable = false
    ∧ (Instr.dd 0x00 .none).wf testTable = false ∧ (Instr.fdIdx 0x00 0 .none).wf testTable = false
    ∧ (Instr.ddcb 5 0x00).wf testTable = false ∧ (Instr.fdcb 5 0x00).wf testTable = false := by decide +kernel

/-- An immediate of another width than the entry's (R71). -/
theorem test_wf_refuses_wrong_width :
    (Instr.main 0x3E .none).wf testTable = false ∧ (Instr.cb 0x7C (.one 0)).wf testTable = false
    ∧ (Instr.ed 0x43 (.one 0)).wf testTable = false ∧ (Instr.dd 0x21 (.one 0)).wf testTable = false
    ∧ (Instr.ddIdx 0x36 5 .none).wf testTable = false := by decide +kernel

/-- A displacement where the entry has none, and none where it has one (R71, R79). -/
theorem test_wf_refuses_wrong_displacement :
    (Instr.dd 0x7E .none).wf testTable = false ∧ (Instr.fd 0x36 (.one 0)).wf testTable = false
    ∧ (Instr.ddIdx 0xE9 5 .none).wf testTable = false ∧ (Instr.fdIdx 0x21 5 (.two 0 0)).wf testTable = false := by
  decide +kernel

/-- A second byte that is not one of `DD`, `ED`, `FD` is no illegal second prefix (R180). -/
theorem test_wf_refuses_legal_second_prefix :
    (Instr.unknownPrefix .dd 0xCB).wf testTable = false ∧ (Instr.unknownPrefix .fd 0x09).wf testTable = false := by
  decide +kernel

/-! ### Decoding the words of the vectors -/

/-- D-4, D-6, D-11 and D-2. -/
theorem test_decode_main :
    decode testTable [0x3E, 0x7F] = .ok (.main 0x3E (.one 0x7F))
    ∧ decode testTable [0xC3, 0x50, 0x01] = .ok (.main 0xC3 (.two 0x50 0x01))
    ∧ decode testTable [0xFF, 0x00, 0x00] = .ok (.main 0xFF (.two 0x00 0x00))
    ∧ decode testTable [0x00, 0xFF, 0xFF, 0xFF] = .ok .nop := by decide +kernel

/-- D-13, D-14 and D-15. -/
theorem test_decode_cb :
    decode testTable [0xCB, 0x00] = .ok .cb00 ∧ decode testTable [0xCB, 0xCB] = .ok (.cb 0xCB .none)
    ∧ decode testTable [0xCB, 0x7C] = .ok (.cb 0x7C .none) := by decide +kernel

/-- D-16 and D-21. -/
theorem test_decode_ed :
    decode testTable [0xED, 0x43, 0x00, 0xC0] = .ok (.ed 0x43 (.two 0x00 0xC0))
    ∧ decode testTable [0xED, 0x44] = .ok (.ed 0x44 .none) := by decide +kernel

/-- D-22, D-23, D-25; the same of `FD 21`. -/
theorem test_decode_idx :
    decode testTable [0xDD, 0x09] = .ok .dd09 ∧ decode testTable [0xFD, 0x09] = .ok (.fd 0x09 .none)
    ∧ decode testTable [0xDD, 0x21, 0x34, 0x12] = .ok (.dd 0x21 (.two 0x34 0x12))
    ∧ decode testTable [0xFD, 0x21, 0x34, 0x12] = .ok (.fd 0x21 (.two 0x34 0x12)) := by decide +kernel

/-- D-27, D-30, D-32, D-48. -/
theorem test_decode_idxd :
    decode testTable [0xDD, 0x36, 0xFE, 0x7F] = .ok (.ddIdx 0x36 0xFE (.one 0x7F))
    ∧ decode testTable [0xFD, 0x7E, 0x80] = .ok (.fdIdx 0x7E 0x80 .none)
    ∧ decode testTable [0xDD, 0x7E, 0xDD] = .ok (.ddIdx 0x7E 0xDD .none)
    ∧ decode testTable [0xDD, 0x36, 0xFE, 0x7F, 0xAA] = .ok (.ddIdx 0x36 0xFE (.one 0x7F)) := by decide +kernel

/-- D-39, D-40, D-46. -/
theorem test_decode_idxcb :
    decode testTable [0xDD, 0xCB, 0x05, 0x06] = .ok (.ddcb 0x05 0x06)
    ∧ decode testTable [0xFD, 0xCB, 0x05, 0x06] = .ok (.fdcb 0x05 0x06)
    ∧ decode testTable [0xFD, 0xCB, 0x05, 0xCB] = .ok (.fdcb 0x05 0xCB) := by decide +kernel

/-- D-36, D-37, D-38. -/
theorem test_decode_illegal_prefix :
    decode testTable [0xDD, 0xED] = .ok (.unknownPrefix .dd 0xED)
    ∧ decode testTable [0xFD, 0xDD, 0x00, 0x00] = .ok (.unknownPrefix .fd 0xDD)
    ∧ decode testTable [0xDD, 0xFD] = .ok (.unknownPrefix .dd 0xFD) := by decide +kernel

/-- The encodings of R71, written out: prefixes first, then opcode, displacement and immediate, and the displacement
before the opcode only under a double prefix. -/
theorem test_encode :
    encode (.main 0xC3 (.two 0x50 0x01)) = [0xC3, 0x50, 0x01]
    ∧ encode (.cb 0x7C .none) = [0xCB, 0x7C]
    ∧ encode (.ed 0x43 (.two 0x00 0xC0)) = [0xED, 0x43, 0x00, 0xC0]
    ∧ encode (.dd 0x21 (.two 0x34 0x12)) = [0xDD, 0x21, 0x34, 0x12]
    ∧ encode (.fd 0xE9 .none) = [0xFD, 0xE9]
    ∧ encode (.ddIdx 0x36 0xFE (.one 0x7F)) = [0xDD, 0x36, 0xFE, 0x7F]
    ∧ encode (.fdIdx 0x7E 0x80 .none) = [0xFD, 0x7E, 0x80]
    ∧ encode (.ddcb 0x05 0x06) = [0xDD, 0xCB, 0x05, 0x06]
    ∧ encode (.fdcb 0x05 0x06) = [0xFD, 0xCB, 0x05, 0x06] := by decide

/-- The rows of the opcode table, numbered as it numbers them. -/
theorem test_table_words :
    decodeTableWord 8 0x3E = some (.main 0x3E .none) ∧ decodeTableWord 16 0xCB7C = some (.cb 0x7C .none)
    ∧ decodeTableWord 16 0xED00 = some (.ed 0x00 .none) ∧ decodeTableWord 16 0xFD00 = some (.fd 0x00 .none)
    ∧ decodeTableWord 16 0xDD7E = some (.ddIdx 0x7E 0x00 .none)
    ∧ decodeTableWord 32 0xDDCB0506 = some (.ddcb 0x05 0x06)
    ∧ decodeTableWord 32 0xFDCB0506 = some (.fdcb 0x05 0x06)
    ∧ decodeTableWord 8 0x00 = some .nop ∧ decodeTableWord 16 0xCB00 = some .cb00
    ∧ decodeTableWord 16 0xDD09 = some .dd09 ∧ decodeTableWord 16 0xFDED = some (.unknownPrefix .fd 0xED) := by
  decide +kernel

/-! ### Responses -/

/-- D-3, D-5, D-7, D-8, L1-10: the range named is that of the whole operand. -/
theorem test_bounds_main :
    decodeWindow testTable [] = .error (.regionOutOfBounds 0 1 0)
    ∧ decodeWindow testTable [0x3E] = .error (.regionOutOfBounds 1 2 1)
    ∧ decodeWindow testTable [0xC3, 0x50] = .error (.regionOutOfBounds 1 3 2)
    ∧ decodeWindow testTable [0xC3] = .error (.regionOutOfBounds 1 3 1)
    ∧ decodeWindow testTable [0xFF, 0x00] = .error (.regionOutOfBounds 1 3 2) := by decide +kernel

/-- D-17, D-26, D-28, D-29, D-42, D-43. -/
theorem test_bounds_prefixed :
    decodeWindow testTable [0xED, 0x43, 0x00] = .error (.regionOutOfBounds 2 4 3)
    ∧ decodeWindow testTable [0xDD, 0x21, 0x34] = .error (.regionOutOfBounds 2 4 3)
    ∧ decodeWindow testTable [0xDD, 0x36, 0xFE] = .error (.regionOutOfBounds 3 4 3)
    ∧ decodeWindow testTable [0xDD, 0x36] = .error (.regionOutOfBounds 2 3 2)
    ∧ decodeWindow testTable [0xDD, 0xCB, 0x05] = .error (.regionOutOfBounds 3 4 3)
    ∧ decodeWindow testTable [0xDD, 0xCB] = .error (.regionOutOfBounds 2 3 2) := by decide +kernel

/-- D-10, D-19, D-35, D-45, D-49. -/
theorem test_unknown_opcode :
    decodeWindow testTable [0x02, 0x00] = .error (.unknownOpcode 0x02 .none)
    ∧ decodeWindow testTable [0xED, 0x00, 0x00, 0x00] = .error (.unknownOpcode 0x00 .ed)
    ∧ decodeWindow testTable [0xDD, 0x00, 0x00] = .error (.unknownOpcode 0x00 .dd)
    ∧ decodeWindow testTable [0xFD, 0xCB, 0x80, 0x00] = .error (.unknownOpcode 0x00 .fdcb)
    ∧ decodeWindow testTable [0xDD, 0xCB, 0x05, 0x00, 0x00] = .error (.unknownOpcode 0x00 .ddcb) := by decide +kernel

/-- D-27, D-30, D-31, D-41: the records, with the displacement's sign. -/
theorem test_records_displacement :
    decodeWindow testTable [0xDD, 0x36, 0xFE, 0x7F] = .ok ⟨.dd, 0x36, "t.IDX.36", some (-2), .imm8 0x7F, 4⟩
    ∧ decodeWindow testTable [0xFD, 0x7E, 0x80] = .ok ⟨.fd, 0x7E, "t.IDX.7E", some (-128), .imm0, 3⟩
    ∧ decodeWindow testTable [0xFD, 0x7E, 0x7F] = .ok ⟨.fd, 0x7E, "t.IDX.7E", some 127, .imm0, 3⟩
    ∧ decodeWindow testTable [0xDD, 0xCB, 0xFF, 0x46] = .ok ⟨.ddcb, 0x46, "t.IDXCB.46", some (-1), .imm0, 4⟩ := by
  decide +kernel

/-- The listings of program P1, and one with a displacement worked out from R88. -/
theorem test_listing :
    DecodedInstruction.listing ⟨.none, 0x00, "NOP", none, .imm0, 1⟩ = "00 ; NOP (1)"
    ∧ DecodedInstruction.listing ⟨.none, 0x3E, "t.MAIN.3E", none, .imm8 0x2A, 2⟩ = "3E #0x2A ; t.MAIN.3E (2)"
    ∧ DecodedInstruction.listing ⟨.none, 0xC3, "t.MAIN.C3", none, .imm16 0x50 0x01 0x0150, 3⟩
        = "C3 #0x0150 ; t.MAIN.C3 (3)"
    ∧ DecodedInstruction.listing ⟨.cb, 0x7C, "t.CB.7C", none, .imm0, 2⟩ = "CB:7C ; t.CB.7C (2)"
    ∧ DecodedInstruction.listing ⟨.dd, 0x36, "t.IDX.36", some (-2), .imm8 0x7F, 4⟩
        = "DD:36 d=-2 #0x7F ; t.IDX.36 (4)" := by decide +kernel

/-! ### One step of each instruction (programs P1 to P4) -/

/-- P1 at pc = 1. -/
theorem test_step_main :
    seen (step (codeState [0x00, 0x3E, 0x2A, 0xC3, 0x50, 0x01, 0xCB, 0x7C, 0x76] 1))
      = some ([.decoded ⟨.none, 0x3E, "t.MAIN.3E", none, .imm8 0x2A, 2⟩], 3) := by decide +kernel

/-- P1 at pc = 3: the immediate is reported, not followed. -/
theorem test_step_main_imm16 :
    seen (step (codeState [0x00, 0x3E, 0x2A, 0xC3, 0x50, 0x01, 0xCB, 0x7C, 0x76] 3))
      = some ([.decoded ⟨.none, 0xC3, "t.MAIN.C3", none, .imm16 0x50 0x01 0x0150, 3⟩], 6) := by decide +kernel

/-- P1 at pc = 6. -/
theorem test_step_cb :
    seen (step (codeState [0x00, 0x3E, 0x2A, 0xC3, 0x50, 0x01, 0xCB, 0x7C, 0x76] 6))
      = some ([.decoded ⟨.cb, 0x7C, "t.CB.7C", none, .imm0, 2⟩], 8) := by decide +kernel

/-- P3 at pc = 0. -/
theorem test_step_ed :
    seen (step (codeState [0xED, 0x43, 0x00, 0xC0, 0xED, 0x44, 0x3E] 0))
      = some ([.decoded ⟨.ed, 0x43, "t.ED.43", none, .imm16 0x00 0xC0 0xC000, 4⟩], 4) := by decide +kernel

/-- The code of program P2. -/
def codeP2 : List Byte :=
  [0xDD, 0x21, 0x00, 0xC0, 0xDD, 0x36, 0x05, 0xFF, 0xDD, 0xCB, 0x05, 0x46] ++
    [0xFD, 0x7E, 0xFB, 0xFD, 0xCB, 0xFE, 0x06, 0xDD, 0xE9]

/-- P2 at pc = 0 and pc = 19. -/
theorem test_step_dd :
    seen (step (codeState codeP2 0)) = some ([.decoded ⟨.dd, 0x21, "t.IDX.21", none, .imm16 0x00 0xC0 0xC000, 4⟩], 4)
    ∧ seen (step (codeState codeP2 19)) = some ([.decoded ⟨.dd, 0xE9, "t.IDX.E9", none, .imm0, 2⟩], 21) := by
  decide +kernel

/-- D-23, as a step. -/
theorem test_step_fd :
    seen (step (codeState [0xFD, 0x09] 0)) = some ([.decoded ⟨.fd, 0x09, "t.IDX.09", none, .imm0, 2⟩], 2) := by
  decide +kernel

/-- P2 at pc = 4. -/
theorem test_step_ddIdx :
    seen (step (codeState codeP2 4)) = some ([.decoded ⟨.dd, 0x36, "t.IDX.36", some 5, .imm8 0xFF, 4⟩], 8) := by
  decide +kernel

/-- P2 at pc = 12: the window's fourth byte belongs to the next instruction. -/
theorem test_step_fdIdx :
    seen (step (codeState codeP2 12)) = some ([.decoded ⟨.fd, 0x7E, "t.IDX.7E", some (-5), .imm0, 3⟩], 15) := by
  decide +kernel

/-- P2 at pc = 8. -/
theorem test_step_ddcb :
    seen (step (codeState codeP2 8)) = some ([.decoded ⟨.ddcb, 0x46, "t.IDXCB.46", some 5, .imm0, 4⟩], 12) := by
  decide +kernel

/-- P2 at pc = 15. -/
theorem test_step_fdcb :
    seen (step (codeState codeP2 15)) = some ([.decoded ⟨.fdcb, 0x06, "t.IDXCB.06", some (-2), .imm0, 4⟩], 19) := by
  decide +kernel

/-- P1 at pc = 0. -/
theorem test_step_nop :
    seen (step (codeState [0x00, 0x3E, 0x2A, 0xC3, 0x50, 0x01, 0xCB, 0x7C, 0x76] 0))
      = some ([.decoded ⟨.none, 0x00, "NOP", none, .imm0, 1⟩], 1) := by decide +kernel

/-- L1-8, as a step. -/
theorem test_step_cb00 :
    seen (step (codeState [0xCB, 0x00] 0)) = some ([.decoded ⟨.cb, 0x00, "t.CB.00", none, .imm0, 2⟩], 2) := by
  decide +kernel

/-- L1-9, as a step. -/
theorem test_step_dd09 :
    seen (step (codeState [0xDD, 0x09] 0)) = some ([.decoded ⟨.dd, 0x09, "t.IDX.09", none, .imm0, 2⟩], 2) := by
  decide +kernel

/-- D-36, as a step: the error is answered and the cursor stays (stop on an error). -/
theorem test_step_unknownPrefix :
    seen (step (codeState [0xDD, 0xED] 0)) = some ([.err (.unknownPrefix 0xED)], 0) := by decide +kernel

/-- P3 at pc = 6: the end of the code stream; and a cursor at the end gives the empty window's error (R37). -/
theorem test_step_end_of_code :
    seen (step (codeState [0xED, 0x43, 0x00, 0xC0, 0xED, 0x44, 0x3E] 6)) = some ([.err (.regionOutOfBounds 1 2 1)], 6)
    ∧ seen (step (codeState [0x76] 1)) = some ([.err (.regionOutOfBounds 0 1 0)], 1) := by decide +kernel

/-- P4 at pc = 1, with its policy of advancing by one on an error. -/
theorem test_step_resynchronises :
    seen (step { codeState [0x00, 0xED, 0x00, 0x76] 1 with
      consumer := { consumerAt [0x00, 0xED, 0x00, 0x76] 1 with policy := .advance 1 } })
      = some ([.err (.unknownOpcode 0x00 .ed)], 2) := by decide +kernel

/-! ### Regions and conversions -/

/-- RG-1 to RG-6. -/
theorem test_extract :
    extract ⟨0x148, 0x149, .byte⟩ (List.replicate 0x148 0 ++ [0x5A]) = .ok [0x5A]
    ∧ extract ⟨0x148, 0x149, .byte⟩ (List.replicate 0x148 0) = .error (.regionOutOfBounds 0x148 0x149 0x148)
    ∧ extract ⟨5, 5, .array 0⟩ [1, 2, 3, 4, 5] = .ok []
    ∧ extract ⟨6, 6, .array 0⟩ [1, 2, 3, 4, 5] = .error (.regionOutOfBounds 6 6 5)
    ∧ extract ⟨3, 2, .array 0⟩ (List.replicate 10 0) = .error (.regionOutOfBounds 3 2 10)
    ∧ extract ⟨0, 4, .array 4⟩ [1, 2, 3, 4] = .ok [1, 2, 3, 4] := by decide +kernel

/-- RG-7 to RG-10. -/
theorem test_conversions :
    toU8 [0x80] = .ok 0x80 ∧ toU16le [0x34, 0x12] = .ok 0x1234 ∧ toU16be [0x34, 0x12] = .ok 0x3412
    ∧ toU16le [0xFF, 0xFF] = .ok 0xFFFF ∧ toArray 2 [1, 2, 3] = .error (.regionOutOfBounds 0 2 3) := by decide +kernel

/-! ### The header -/

/-- H-CK-1, H-CK-3 to H-CK-6. -/
theorem test_checksum :
    checksumByte (List.replicate 25 0) = 0xE7 ∧ checksumByte h1Range = 0x71 ∧ checksumByte h2Range = 0x35
    ∧ checksumByte (List.replicate 25 0xFF) = 0x00 ∧ checksumByte (0x41 :: List.replicate 24 0) = 0xA6 := by
  decide +kernel

/-- H-CTOR-1 and H-CTOR-4. -/
theorem test_construct_ok :
    constructStrict testComponents romH1 = .ok headerH1 ∧ constructStrict testComponents romH2 = .ok headerH2 := by
  decide +kernel

/-- H-CTOR-2 and H-CTOR-3. -/
theorem test_construct_bad_checksum :
    constructLenient testComponents (romOf h1Range 0x00) = .ok { headerH1 with headerChecksumOk := false }
    ∧ constructStrict testComponents (romOf h1Range 0x00) = .error (.badHeaderChecksum 0x71 0x00) := by
  decide +kernel

/-- H-CTOR-9, H-CTOR-10, H-CTOR-11: the first failing step's error. -/
theorem test_construct_priority :
    constructStrict testComponents (romOf (((h1Range.set 0x14 0x07).set 0x15 0x05).set 0x13 0x15) 0x00)
      = .error (.unknownROMSize 0x07)
    ∧ constructStrict testComponents (romOf ((h1Range.set 0x15 0x05).set 0x13 0x20) 0x71) = .error (.unknownRAMSize 0x05)
    ∧ constructStrict testComponents (romOf (h1Range.set 0x13 0x20) 0x00) = .error (.unknownComponents 0x20) := by
  decide +kernel

/-- H-CTOR-6 and H-CTOR-12. -/
theorem test_construct_fields :
    (constructStrict testComponents (romOf (h1Range.set 0x14 0x52) 0x20)).map (fun h => h.romCapacity.bytes) = .ok 1179648
    ∧ (constructStrict testComponents (romOf ((h1Range.set 0x0F 0xC0).set 0x12 0x13) 0x9E)).map
        (fun h => (h.isColorMode, h.isSuperMode)) = .ok (false, false) := by decide +kernel

/-- H-CTOR-13 to H-CTOR-18. -/
theorem test_construct_truncated :
    constructLenient testComponents (romH1.take 0x100) = .error (.regionOutOfBounds 0x134 0x144 0x100)
    ∧ constructLenient testComponents (romH1.take 0x148) = .error (.regionOutOfBounds 0x148 0x149 0x148)
    ∧ constructLenient testComponents (romH1.take 0x149) = .error (.regionOutOfBounds 0x149 0x14A 0x149)
    ∧ constructLenient testComponents (romH1.take 0x14B) = .error (.regionOutOfBounds 0x134 0x14D 0x14B)
    ∧ constructLenient testComponents (romH1.take 0x14D) = .error (.regionOutOfBounds 0x14D 0x14E 0x14D)
    ∧ constructStrict testComponents (romH1.take 0x14E) = .ok headerH1 := by decide +kernel

/-- H-T-3 to H-T-6. -/
theorem test_title :
    utf8Lossy [0x50, 0x4F, 0x4B, 0xC3, 0xA9, 0xE2, 0x82, 0x00, 0xF0, 0x9F, 0x98, 0x80, 0xFF, 0xED, 0xA0, 0x80]
      = "POK".toList ++ [Char.ofNat 0xE9, Char.ofNat 0xFFFD, Char.ofNat 0, Char.ofNat 0x1F600]
        ++ List.replicate 4 (Char.ofNat 0xFFFD)
    ∧ utf8Lossy ((List.replicate 4 [0xF0, 0x9F, 0x98, 0x80]).flatten) = List.replicate 4 (Char.ofNat 0x1F600)
    ∧ utf8Lossy (0xC3 :: List.replicate 15 0x41) = Char.ofNat 0xFFFD :: List.replicate 15 'A'
    ∧ utf8Lossy (List.replicate 15 0x41 ++ [0xE2]) = List.replicate 15 'A' ++ [Char.ofNat 0xFFFD] := by decide +kernel

/-! ### Ports (program P5, the query vectors) -/

/-- P5, 1 and 2: LOAD, then CONSTRUCT(strict); and the read failure of R209. -/
theorem test_port_load :
    seen (step (portState none none (.load (some romH1)))) = some ([.loaded], 0)
    ∧ seen (step (portState none none (.load none))) = some ([.ioError], 0)
    ∧ seen (step (portState (some romH1) none (.construct .strict))) = some ([.constructed headerH1], 0) := by
  decide +kernel

/-- H-Q-1 to H-Q-3. -/
theorem test_port_queries :
    seen (step (portState (some romH1) (some headerH1) .title)) = some ([.text ("TETRIS".toList ++ nuls 10)], 0)
    ∧ seen (step (portState (some romH1) (some headerH1) (.hasComponent .battery))) = some ([.flag true], 0)
    ∧ seen (step (portState (some romH1) (some headerH1) (.hasComponent (.mbc .mbc3)))) = some ([.flag false], 0)
    ∧ seen (step (portState (some romH1) (some headerH1) (.hasComponent (.ram .ram2K)))) = some ([.flag false], 0) := by
  decide +kernel

/-- H-Q-4 and H-Q-5. -/
theorem test_port_queries_flags :
    seen (step (portState (some romH2) (some headerH2) .isColorMode)) = some ([.flag true], 0)
    ∧ seen (step (portState (some romH2) (some headerH2) .isSuperMode)) = some ([.flag true], 0)
    ∧ seen (step (portState (some romH1) (some headerH1) .romCapacity)) = some ([.romSize .rom64K], 0)
    ∧ seen (step (portState (some romH1) (some headerH1) .ramCapacity)) = some ([.ramSize .ram8K], 0)
    ∧ seen (step (portState (some romH1) (some headerH1) .headerChecksumOk)) = some ([.flag true], 0) := by
  decide +kernel

/-- P5, 4: the Consumer decodes from the ROM Store at `0x100`. -/
theorem test_consumer_from_rom :
    seen (step { portState (some ((romH1.set 0x100 0x00).set 0x101 0xC3)) none .title with
      pending := [], consumer := { code := .rom, pc := 0x100, policy := .stop, running := true } })
      = some ([.decoded ⟨.none, 0x00, "NOP", none, .imm0, 1⟩], 0x101) := by decide +kernel

/-- H-CTOR-19, H-Q-6, R22, and R210's BadTable under tables that break R81, R82 and R83. -/
theorem test_faults :
    faultOf (step (portState none none (.construct .strict))) = some .noRom
    ∧ faultOf (step (portState (some romH1) none .title)) = some .noHeader
    ∧ faultOf (step (portState (some romH1) none (.load (some [])))) = some .reloaded
    ∧ faultOf (step (underTable (codeState [0x00] 0) badTable81)) = some .badTable
    ∧ faultOf (step (underTable (codeState [0x00] 0) badTable82)) = some .badTable
    ∧ faultOf (step (underTable (codeState [0x00] 0) badTable82cb)) = some .badTable
    ∧ faultOf (step (underTable (portState none none (.decode [])) badTable83)) = some .badTable := by
  decide +kernel

/-! ### Witnesses: states and operands that meet the hypotheses of the statements, clause by clause -/

theorem testTable_wf : testTable.wf = true := by decide +kernel

/-- DecodeInvertsEncode: a well-formed instruction of every constructor, with widths 0, 1 and 2. -/
theorem witness_DecodeInvertsEncode :
    testTable.wf = true
    ∧ (Instr.main 0x76 .none).wf testTable = true ∧ (Instr.main 0x3E (.one 0xFF)).wf testTable = true
    ∧ (Instr.main 0xFF (.two 0xFF 0x00)).wf testTable = true
    ∧ (Instr.cb 0xFF .none).wf testTable = true ∧ (Instr.ed 0x43 (.two 0 0)).wf testTable = true
    ∧ (Instr.dd 0x21 (.two 0 0)).wf testTable = true ∧ (Instr.fd 0x09 .none).wf testTable = true
    ∧ (Instr.ddIdx 0x36 0x80 (.one 0)).wf testTable = true ∧ (Instr.fdIdx 0x7E 0x7F .none).wf testTable = true
    ∧ (Instr.ddcb 0xFF 0xCB).wf testTable = true ∧ (Instr.fdcb 0x00 0x06).wf testTable = true
    ∧ Instr.nop.wf testTable = true ∧ Instr.cb00.wf testTable = true ∧ Instr.dd09.wf testTable = true
    ∧ (Instr.unknownPrefix .dd 0xDD).wf testTable = true ∧ (Instr.unknownPrefix .fd 0xFD).wf testTable = true := by
  decide +kernel

theorem witness_DecodedWindowBeginsWithTheEncoding :
    testTable.wf = true ∧ decode testTable [0xDD, 0xCB, 0x05, 0x06, 0x00] = .ok (.ddcb 0x05 0x06)
    ∧ decode testTable [0x00] = .ok .nop := by decide +kernel

/-- SpecWordsDecode: TEST_TABLE's entry for each clause. -/
theorem witness_SpecWordsDecode :
    testTable.lookup .main 0x3E = some { name := "t.MAIN.3E", imm := 1, idxrel := false }
    ∧ testTable.lookup .ed 0x43 = some { name := "t.ED.43", imm := 2, idxrel := false }
    ∧ testTable.lookup .idx 0x36 = some { name := "t.IDX.36", imm := 1, idxrel := true }
    ∧ testTable.lookup .idxcb 0x46 = some { name := "t.IDXCB.46", imm := 0, idxrel := false } := by decide +kernel

theorem witness_StagesAgreeWithForms : testTable.wf = true := testTable_wf

/-- DecodeReadsAtMostFourBytes: the shortest window of its second clause. -/
theorem witness_DecodeReadsAtMostFourBytes :
    testTable.wf = true ∧ 4 ≤ ([0xDD, 0xCB, 0x05, 0x00] : List Byte).length := by decide +kernel

theorem witness_LongerWindowKeepsTheRecord :
    decodeWindow testTable [0x3E, 0x7F] = .ok ⟨.none, 0x3E, "t.MAIN.3E", none, .imm8 0x7F, 2⟩ := by decide +kernel

/-- LengthIsTheSumOfTheFields: the shortest and the longest record. -/
theorem witness_LengthIsTheSumOfTheFields :
    testTable.wf = true
    ∧ decodeWindow testTable [0x00] = .ok ⟨.none, 0x00, "NOP", none, .imm0, 1⟩
    ∧ decodeWindow testTable [0xDD, 0x36, 0xFE, 0x7F] = .ok ⟨.dd, 0x36, "t.IDX.36", some (-2), .imm8 0x7F, 4⟩ := by
  decide +kernel

/-- DecodeErrorPriority: a byte for each of the five clauses that have a hypothesis. -/
theorem witness_DecodeErrorPriority :
    (isPrefixByte 0x02 = false ∧ testTable.lookup .main 0x02 = none)
    ∧ ({ testTable with cb := Vector.replicate 256 none } : OpTable).lookup .cb 0x01 = none
    ∧ testTable.lookup .ed 0x00 = none
    ∧ (isPrefixByte 0x00 = false ∧ testTable.lookup .idx 0x00 = none)
    ∧ ((0xFD : Byte) = 0xDD ∨ (0xFD : Byte) = 0xED ∨ (0xFD : Byte) = 0xFD) := by decide +kernel

/-- UnknownPrefixExactly and UnknownOpcodeExactly: both sides are met somewhere. -/
theorem witness_UnknownPrefixExactly :
    decodeWindow testTable [0xFD, 0xDD] = .error (.unknownPrefix 0xDD)
    ∧ decodeWindow testTable [0xFD, 0xCB, 0x80, 0x00] = .error (.unknownOpcode 0x00 .fdcb)
    ∧ Claims.opcodeOf [0xFD, 0xCB, 0x80, 0x00] = some (.fdcb, 0x00) := by decide +kernel

/-- BoundsErrorNamesTheMissingRange: the lowest and the highest range. -/
theorem witness_BoundsErrorNamesTheMissingRange :
    testTable.wf = true ∧ decodeWindow testTable [] = .error (.regionOutOfBounds 0 1 0)
    ∧ decodeWindow testTable [0xED, 0x43, 0x00] = .error (.regionOutOfBounds 2 4 3) := by decide +kernel

/-- FormMainRule and FormIndexRule: the lowest and the highest opcode byte, and those beside a prefix. -/
theorem witness_FormMainRule :
    isPrefixByte 0x00 = false ∧ isPrefixByte 0xFF = false ∧ isPrefixByte 0xCA = false ∧ isPrefixByte 0xFE = false := by
  decide

/-- FormIndexRule: an opcode for each of its cases under TEST_TABLE. -/
theorem witness_FormIndexRule :
    (isPrefixByte 0x00 = false ∧ testTable.lookup .idx 0x00 = none)
    ∧ (isPrefixByte 0xE9 = false ∧ testTable.lookup .idx 0xE9 = some ⟨"t.IDX.E9", 0, false⟩)
    ∧ (isPrefixByte 0x36 = false ∧ testTable.lookup .idx 0x36 = some ⟨"t.IDX.36", 1, true⟩) := by decide +kernel

theorem witness_FormDoublePrefixRule :
    testTable.wf = true ∧ testTable.lookup .idxcb 0x00 = none
    ∧ testTable.lookup .idxcb 0xCB = some ⟨"t.IDXCB.CB", 0, false⟩ := by decide +kernel

/-- UnprefixedInstructionCompletes: widths 0 and 2. -/
theorem witness_UnprefixedInstructionCompletes :
    (codeState [] 0).params.optable.wf = true
    ∧ (testTable.lookup .main 0x00 = some ⟨"NOP", 0, false⟩ ∧ (0 : Fin 3).val = ImmBytes.none.width)
    ∧ (testTable.lookup .main 0xFF = some ⟨"t.MAIN.FF", 2, false⟩ ∧ (2 : Fin 3).val = (ImmBytes.two 0 0).width) := by
  decide +kernel

theorem witness_CbAndEdInstructionsComplete :
    (codeState [] 0).params.optable.wf = true
    ∧ (testTable.lookup .cb 0xFF = some ⟨"t.CB.FF", 0, false⟩ ∧ (0 : Fin 3).val = ImmBytes.none.width)
    ∧ (testTable.lookup .ed 0x43 = some ⟨"t.ED.43", 2, false⟩ ∧ (2 : Fin 3).val = (ImmBytes.two 0 0).width) := by
  decide +kernel

theorem witness_IndexInstructionsComplete :
    (codeState [] 0).params.optable.wf = true
    ∧ (testTable.lookup .idx 0x21 = some ⟨"t.IDX.21", 2, false⟩ ∧ (2 : Fin 3).val = (ImmBytes.two 0 0).width)
    ∧ (testTable.lookup .idx 0x36 = some ⟨"t.IDX.36", 1, true⟩ ∧ (1 : Fin 3).val = (ImmBytes.one 0).width) := by
  decide +kernel

theorem witness_DoublePrefixInstructionsComplete :
    (codeState [] 0).params.optable.wf = true ∧ testTable.lookup .idxcb 0x06 = some ⟨"t.IDXCB.06", 0, false⟩ := by
  decide +kernel

/-- FixedInstructionsComplete and UnknownPrefixCompletes: the state they are about. -/
theorem witness_FixedInstructionsComplete : (codeState [] 0).params.optable.wf = true := by decide +kernel

theorem witness_UnknownPrefixCompletes : (codeState [] 0).params.optable.wf = true := by decide +kernel

/-- UndefinedOpcodeAnswersItsError: a byte for each clause. -/
theorem witness_UndefinedOpcodeAnswersItsError :
    ({ testTable with cb := Vector.replicate 256 none } : OpTable).wf = true
    ∧ ({ testTable with cb := Vector.replicate 256 none } : OpTable).lookup .cb 0x01 = none
    ∧ (codeState [] 0).params.optable.wf = true
    ∧ testTable.lookup .main 0x02 = none ∧ testTable.lookup .ed 0xFF = none
    ∧ testTable.lookup .idx 0x00 = none ∧ testTable.lookup .idxcb 0x00 = none := by decide +kernel

/-- InstructionFrame: an instruction that answers a record, and one that answers an error. -/
theorem witness_InstructionFrame :
    (∃ t, exec (.main 0x76 .none) (codeState [] 0) = .next t)
    ∧ (∃ t, exec (.unknownPrefix .dd 0xED) (codeState [] 0) = .next t) :=
  ⟨next_of_seen (by decide +kernel), next_of_seen (by decide +kernel)⟩

theorem witness_IllFormedTableFaults :
    (underTable (codeState [0x00] 0) badTable81).params.optable.wf = false
    ∧ (underTable (codeState [0x00] 0) badTable83).params.optable.wf = false := by decide +kernel

/-- StepRunsTheDecodedInstruction and ConsumerStepDecodesItsWindow: a cursor inside the code. -/
theorem witness_StepRunsTheDecodedInstruction :
    (codeState codeP2 15).pending = [] ∧ (codeState codeP2 15).consumer.running = true
    ∧ (codeState codeP2 15).codeBytes = some codeP2
    ∧ decode (codeState codeP2 15).params.optable ((codeP2.drop (codeState codeP2 15).consumer.pc).take 4)
        = .ok (.fdcb 0xFE 0x06) := by decide +kernel

/-- ConsumerStepDecodesItsWindow: also where the cursor is past the end. -/
theorem witness_ConsumerStepDecodesItsWindow :
    (codeState codeP2 22).pending = [] ∧ (codeState codeP2 22).consumer.running = true
    ∧ (codeState codeP2 22).codeBytes = some codeP2 ∧ (codeState codeP2 22).params.optable.wf = true := by decide +kernel

/-- EncodedInstructionRunsInPlace: the last instruction of P2, which nothing follows. -/
theorem witness_EncodedInstructionRunsInPlace :
    (codeState codeP2 19).pending = [] ∧ (codeState codeP2 19).consumer.running = true
    ∧ (codeState codeP2 19).codeBytes = some codeP2 ∧ (codeState codeP2 19).params.optable.wf = true
    ∧ (Instr.dd 0xE9 .none).wf (codeState codeP2 19).params.optable = true
    ∧ codeP2.drop (codeState codeP2 19).consumer.pc = encode (.dd 0xE9 .none) ++ []
    ∧ (∀ p q, Instr.dd 0xE9 .none ≠ .unknownPrefix p q) := by
  refine ⟨rfl, rfl, rfl, by decide +kernel, by decide +kernel, by decide +kernel, ?_⟩
  intro p q h; cases h

/-- DecodePortAnswersTheWindow: the empty window. -/
theorem witness_DecodePortAnswersTheWindow :
    (portState none none (.decode [])).pending = .decode [] :: []
    ∧ (portState none none (.decode [])).params.optable.wf = true := by decide +kernel

/-- DecodeIgnoresTheStores: two states with different stores. -/
theorem witness_DecodeIgnoresTheStores :
    let s := codeState [0x00] 0
    let s' : State := { s with rom := some (Memory.ofBytes romH1), hdr := some headerH1, st := some .start }
    s.pending = [] ∧ s'.pending = [] ∧ s.consumer = s'.consumer ∧ s.consumer.code = .bytes [0x00]
    ∧ s.params.optable = s'.params.optable ∧ s.out = s'.out ∧ ∃ t, step s = .next t :=
  ⟨rfl, rfl, rfl, rfl, rfl, rfl, next_of_seen (by decide +kernel)⟩

theorem witness_DecodeRequestsAreIndependent : (codeState [] 0).params.optable.wf = true := by decide +kernel

/-- StepFrame: steps of a request, of the Consumer, and idle. -/
theorem witness_StepFrame :
    (∃ t, step (portState (some romH1) none (.construct .strict)) = .next t)
    ∧ (∃ t, step (portState none none (.load (some romH1))) = .next t)
    ∧ (∃ t, step (codeState codeP2 0) = .next t) ∧ (∃ t, step State.reset = .next t) :=
  ⟨next_of_seen (by decide +kernel), next_of_seen (by decide +kernel), next_of_seen (by decide +kernel), ⟨_, rfl⟩⟩

/-- LoadWritesTheRomStoreOnce: the empty store with the empty source and an unreadable one, and a loaded store. -/
theorem witness_LoadWritesTheRomStoreOnce :
    ((portState none none (.load (some []))).pending = .load (some []) :: []
      ∧ (portState none none (.load (some []))).rom = none)
    ∧ ((portState none none (.load none)).pending = .load none :: [] ∧ (portState none none (.load none)).rom = none)
    ∧ ((portState (some []) none (.load none)).pending = .load none :: []
      ∧ (portState (some []) none (.load none)).rom ≠ none) := by decide +kernel

/-- ConstructFollowsTheSixSteps: a waiting CONSTRUCT, and the lengths at which one step after another succeeds. -/
theorem witness_ConstructFollowsTheSixSteps :
    (portState none none (.construct .strict)).pending = .construct .strict :: []
    ∧ (portState (some romH1) none (.construct .lenient)).pending = .construct .lenient :: []
    ∧ Claims.headerResult .strict testComponents (romH1.take 0x143) = .error (.regionOutOfBounds 0x134 0x144 0x143)
    ∧ Claims.headerResult .strict testComponents (romH1.take 0x144) = .error (.regionOutOfBounds 0x148 0x149 0x144)
    ∧ Claims.headerResult .strict testComponents (romH1.take 0x149) = .error (.regionOutOfBounds 0x149 0x14A 0x149)
    ∧ Claims.headerResult .strict testComponents (romH1.take 0x14A) = .error (.regionOutOfBounds 0x134 0x14D 0x14A)
    ∧ Claims.headerResult .strict testComponents (romH1.take 0x14D) = .error (.regionOutOfBounds 0x14D 0x14E 0x14D)
    ∧ Claims.headerResult .strict testComponents (romH1.take 0x14E) = .ok headerH1
    ∧ Claims.headerResult .strict testComponents (romOf h1Range 0x00) = .error (.badHeaderChecksum 0x71 0x00) := by
  decide +kernel

/-- QueriesAnswerTheHeader: a query of each kind. -/
theorem witness_QueriesAnswerTheHeader :
    (portState (some romH1) (some headerH1) .title).pending = .title :: []
    ∧ (portState (some romH1) (some headerH1) .title).hdr = some headerH1
    ∧ Claims.queryAnswer headerH1 .title = some (.text headerH1.title)
    ∧ Claims.queryAnswer headerH1 .components = some (.componentList headerH1.components)
    ∧ Claims.queryAnswer headerH1 (.hasComponent .timer) = some (.flag false)
    ∧ Claims.queryAnswer headerH2 .isColorMode = some (.flag true)
    ∧ Claims.queryAnswer headerH2 .isSuperMode = some (.flag true)
    ∧ Claims.queryAnswer headerH1 .romCapacity = some (.romSize .rom64K)
    ∧ Claims.queryAnswer headerH1 .ramCapacity = some (.ramSize .ram8K)
    ∧ Claims.queryAnswer headerH1 .headerChecksumOk = some (.flag true) := by decide +kernel

theorem witness_QueryWithoutHeaderFaults :
    (portState (some romH1) none .isColorMode).pending = .isColorMode :: []
    ∧ (portState (some romH1) none .isColorMode).hdr = none
    ∧ ∃ h a, Claims.queryAnswer h .isColorMode = some a :=
  ⟨rfl, rfl, headerH1, .flag false, by decide +kernel⟩

/-- StepFaultsExactly: a state for each of the four faults, and one without a fault. -/
theorem witness_StepFaultsExactly :
    (portState none none (.construct .strict)).faultNext = some .noRom
    ∧ (portState (some romH1) none .title).faultNext = some .noHeader
    ∧ (portState (some romH1) none (.load none)).faultNext = some .reloaded
    ∧ (underTable (codeState [0x00] 0) badTable82).faultNext = some .badTable
    ∧ (codeState [0x00] 0).faultNext = none ∧ State.reset.faultNext = none := by decide +kernel

/-- A state with a ROM and its header, which meets the invariant. -/
def builtState (r : Request) : State := portState (some romH1) (some headerH1) r

theorem builtState_inv (r : Request) : (builtState r).Inv := by
  refine ⟨rfl, ?_, ?_⟩
  · intro m hm
    obtain rfl : Memory.ofBytes romH1 = m := by injection hm
    decide +kernel
  · intro h hh
    obtain rfl : headerH1 = h := by injection hh
    have : constructLenient testComponents (Memory.bytes (Memory.ofBytes romH1)) = .ok headerH1 := by decide +kernel
    exact ⟨Memory.ofBytes romH1, rfl, this⟩

/-- StepKeepsTheInvariant: the first construction over a loaded ROM, which meets the invariant with no header. -/
theorem witness_StepKeepsTheInvariant :
    (portState (some romH1) none (.construct .strict)).Inv
    ∧ ∃ t, step (portState (some romH1) none (.construct .strict)) = .next t := by
  refine ⟨⟨rfl, ?_, ?_⟩, next_of_seen (by decide +kernel)⟩
  · intro m hm
    obtain rfl : Memory.ofBytes romH1 = m := by injection hm
    decide +kernel
  · intro h hh; cases hh

/-- HeaderRegisterNeverChanges: H-CTOR-20, a second construction over a written header. -/
theorem witness_HeaderRegisterNeverChanges :
    (builtState (.construct .lenient)).Inv ∧ (builtState (.construct .lenient)).hdr = some headerH1
    ∧ ∃ t, step (builtState (.construct .lenient)) = .next t :=
  ⟨builtState_inv _, rfl, next_of_seen (by decide +kernel)⟩

/-- OnlyConstructWritesTheHeader: a step that writes it, and one that does not. -/
theorem witness_OnlyConstructWritesTheHeader :
    (∃ t, step (portState (some romH1) none (.construct .strict)) = .next t)
    ∧ (∃ t, step (builtState .title) = .next t) :=
  ⟨next_of_seen (by decide +kernel), next_of_seen (by decide +kernel)⟩

/-- OnlyLoadWritesTheRomStore: a step that writes it, and one that does not. -/
theorem witness_OnlyLoadWritesTheRomStore :
    (∃ t, step (portState none none (.load (some romH1))) = .next t)
    ∧ (∃ t, step (portState none none (.load none)) = .next t) :=
  ⟨next_of_seen (by decide +kernel), next_of_seen (by decide +kernel)⟩

/-- ErrorsChangeNoBlockState: a construction and a decode that end in an error. -/
theorem witness_ErrorsChangeNoBlockState :
    (∃ t, step (portState (some []) none (.construct .strict)) = .next t
        ∧ t.out = [] ++ [.err (.regionOutOfBounds 0x134 0x144 0)])
    ∧ (portState (some []) none (.construct .strict)).st = none
    ∧ (∃ t, step (portState none none (.decode [])) = .next t ∧ t.out = [] ++ [.err (.regionOutOfBounds 0 1 0)])
    ∧ (portState none none (.decode [])).st = none := by
  refine ⟨⟨_, rfl, rfl⟩, rfl, ?_, rfl⟩
  obtain ⟨t, ht⟩ := next_of_seen (o := step (portState none none (.decode []))) (by decide +kernel)
  have hs : seen (step (portState none none (.decode []))) = some ([.err (.regionOutOfBounds 0 1 0)], 0) := by
    decide +kernel
  rw [ht] at hs
  exact ⟨t, ht, congrArg Prod.fst (Option.some.inj hs)⟩

/-- A state in P2 that has reported a record with a displacement and one with a 2-byte immediate. -/
def reportedState : State :=
  { codeState codeP2 12 with
    out := [.decoded ⟨.dd, 0x21, "t.IDX.21", none, .imm16 0x00 0xC0 0xC000, 4⟩,
      .decoded ⟨.ddcb, 0x46, "t.IDXCB.46", some (-128), .imm0, 4⟩] }

/-- ReportedRecordsAreSound: a step of P2 from that state. -/
theorem witness_ReportedRecordsAreSound :
    reportedState.RecordsSound ∧ ∃ t, step reportedState = .next t := by
  refine ⟨?_, next_of_seen (by decide +kernel)⟩
  intro r h
  simp only [reportedState, List.mem_cons, Response.decoded.injEq, List.not_mem_nil, or_false] at h
  rcases h with rfl | rfl <;>
    simp [DecodedInstruction.Sound, DecodedInstruction.lengthBySum, Ctx.prefixCount, Imm.width, u16le]

/-- OptableCheckIsItsConstraints: both sides are met, and both are missed. -/
theorem witness_OptableCheckIsItsConstraints :
    testTable.wf = true ∧ badTable81.wf = false ∧ badTable82.wf = false ∧ badTable82cb.wf = false
    ∧ badTable83.wf = false := by decide +kernel

/-- CapacityTablesRoundTrip: the lowest and the highest code of each table. -/
theorem witness_CapacityTablesRoundTrip :
    RomCapacity.ofCode 0x00 = some .rom32K ∧ RomCapacity.ofCode 0x54 = some .rom96B
    ∧ RamCapacity.ofCode 0x00 = some .ramNone ∧ RamCapacity.ofCode 0x04 = some .ram128K
    ∧ RomCapacity.ofCode 0x07 = none ∧ RamCapacity.ofCode 0x05 = none := by decide

/-- ComponentTableDomain: a code inside the domain and the two known ones outside (L1-1). -/
theorem witness_ComponentTableDomain :
    (testComponents.lookup 0xFF).isSome = true ∧ testComponents.lookup 0x15 = none
    ∧ testComponents.lookup 0x20 = none := by decide +kernel

/-- ExtractReadsTheWholeRange: the whole buffer, the empty range at its end, one past its end, and a start beyond the
stop. -/
theorem witness_ExtractReadsTheWholeRange :
    ((0 : Nat) ≤ 4 ∧ 4 ≤ ([1, 2, 3, 4] : List Byte).length) ∧ ((5 : Nat) ≤ 5 ∧ 5 ≤ ([1, 2, 3, 4, 5] : List Byte).length)
    ∧ ¬ ((6 : Nat) ≤ 6 ∧ 6 ≤ ([1, 2, 3, 4, 5] : List Byte).length)
    ∧ ¬ ((3 : Nat) ≤ 2 ∧ 2 ≤ (List.replicate 10 (0 : Byte)).length) := by decide

/-- ConversionsValidateTheLength: a slice one too short and one too long for each width. -/
theorem witness_ConversionsValidateTheLength :
    ([] : List Byte).length ≠ 1 ∧ ([1, 2] : List Byte).length ≠ 1 ∧ ([1] : List Byte).length ≠ 2
    ∧ ([1, 2, 3] : List Byte).length ≠ 2 ∧ (List.replicate 25 (0 : Byte)).length = 25
    ∧ (List.replicate 24 (0 : Byte)).length ≠ 25 := by decide

/-- HeaderChecksumFormula: the shortest ROM that holds the range, and one byte less. -/
theorem witness_HeaderChecksumFormula :
    0x14D ≤ (romH1.take 0x14D).length ∧ (romH1.take 0x14C).length < 0x14D := by decide +kernel

/-- TitleTextLength: the highest ASCII byte, and the first and last bytes that begin no sequence. -/
theorem witness_TitleTextLength :
    (∀ b ∈ ([0x00, 0x7F] : List Byte), b.toNat ≤ 0x7F)
    ∧ ((0x80 ≤ (0x80 : Byte).toNat ∧ (0x80 : Byte).toNat ≤ 0xC1) ∨ 0xF5 ≤ (0x80 : Byte).toNat)
    ∧ ((0x80 ≤ (0xC1 : Byte).toNat ∧ (0xC1 : Byte).toNat ≤ 0xC1) ∨ 0xF5 ≤ (0xC1 : Byte).toNat)
    ∧ ((0x80 ≤ (0xFF : Byte).toNat ∧ (0xFF : Byte).toNat ≤ 0xC1) ∨ 0xF5 ≤ (0xFF : Byte).toNat) := by decide

end Sys2Proof.Tests
end

section
/-! PROOFS. Scope (00_scope.md): the Consumer's step as a function of its window, and the frame of a step. -/

namespace Sys2Proof.Machine

/-! ### The Consumer's step depends on its window alone -/

/-- The response the Consumer's step gives to a window: that of the instruction the window spells, or the error that
says why it spells none (R37). -/
def windowResponse (T : OpTable) (w : List Byte) : Except DecodeError DecodedInstruction :=
  decode T w >>= responseOf T

/-- The Consumer's step over a window it can slice is the end of a fetch-decode step with the window's response. -/
theorem consumerStep_of_fetchWindow {s : State} {w : List Byte} (hw : s.fetchWindow = some w) :
    consumerStep s = s.consumerDecode (windowResponse s.params.optable w) := by
  unfold consumerStep windowResponse
  rw [hw]
  dsimp only
  cases decode s.params.optable w with
  | ok i => exact exec_eq i s
  | error e => rfl

/-- A Consumer with a byte sequence of its own slices its window from that sequence, not from the ROM Store (R36). -/
theorem fetchWindow_of_bytes {s : State} {code : List Byte} (hc : s.consumer.code = .bytes code) :
    s.fetchWindow = some (windowAt code s.consumer.pc) := by
  simp [State.fetchWindow, State.codeBytes, hc]

/-- The error policy moves the Consumer by what the Consumer itself holds. -/
theorem applyPolicy_consumer_congr {s s' : State} (hc : s.consumer = s'.consumer) :
    s.applyPolicy.consumer = s'.applyPolicy.consumer := by
  unfold State.applyPolicy
  rw [hc]
  cases s'.consumer.policy <;> simp [hc]

/-- The end of a fetch-decode step moves the Consumer by the response and by what the Consumer itself holds. -/
theorem finishDecode_consumer_congr {s s' : State} (hc : s.consumer = s'.consumer)
    (resp : Except DecodeError DecodedInstruction) :
    (s.finishDecode resp).consumer = (s'.finishDecode resp).consumer := by
  cases resp with
  | ok r => simp [State.finishDecode, hc]
  | error e => exact applyPolicy_consumer_congr hc

/-- The Consumer's decode reads only the Consumer, the OPTABLE and the responses given. -/
theorem consumerDecode_congr {s s' t : State} {resp : Except DecodeError DecodedInstruction}
    (hc : s.consumer = s'.consumer) (hT : s.params.optable = s'.params.optable) (ho : s.out = s'.out)
    (h : s.consumerDecode resp = .next t) :
    ∃ t', s'.consumerDecode resp = .next t' ∧ t'.consumer = t.consumer ∧ t'.out = t.out := by
  obtain ⟨hwf, rfl⟩ := (consumerDecode_next_iff _ _ _).1 h
  refine ⟨s'.finishDecode resp, (consumerDecode_next_iff _ _ _).2 ⟨hT ▸ hwf, rfl⟩, ?_, ?_⟩
  · exact finishDecode_consumer_congr hc.symm resp
  · simp [ho]

/-- Where no request waits, a step is the Consumer's while its loop runs. -/
theorem step_of_running {s : State} (hp : s.pending = []) (hr : s.consumer.running = true) :
    step s = consumerStep s := by
  simp [step, hp, hr]

/-- Where no request waits and the Consumer's loop does not run, the state stays (log 17). -/
theorem step_of_idle {s : State} (hp : s.pending = []) (hr : s.consumer.running = false) :
    step s = .next s := by
  simp [step, hp, hr]

/-! ### The frame of a step -/

/-- A request that is answered leaves the parameters and the requests that wait, and gives at most one response, last. -/
theorem serve_frame {r : Request} {s t : State} (h : serve r s = .next t) :
    t.params = s.params ∧ t.pending = s.pending ∧ (t.out = s.out ∨ ∃ resp, t.out = s.out ++ [resp]) := by
  rcases serve_next h with ⟨_, _, _, rfl⟩ | ⟨_, _, _, _, _, _, rfl⟩ | ⟨_, _, _, rfl⟩ | ⟨_, _, _, _, rfl⟩ | ⟨_, _, rfl⟩
  · exact ⟨rfl, rfl, .inr ⟨.loaded, rfl⟩⟩
  · exact ⟨rfl, rfl, .inr ⟨.constructed _, rfl⟩⟩
  · exact ⟨rfl, rfl, .inr ⟨decodeResponse _, rfl⟩⟩
  · exact ⟨rfl, rfl, .inl rfl⟩
  · exact ⟨rfl, rfl, .inr ⟨_, rfl⟩⟩

end Sys2Proof.Machine

namespace Sys2Proof.Scope

open Sys2Proof.Machine

/-- Settles O32: both Consumers slice the same window from the same buffer, so both steps end with the same response,
and how a step ends is a function of the response and the Consumer. -/
theorem decodeIgnoresTheStores : Obligations.DecodeIgnoresTheStores := by
  unfold Obligations.DecodeIgnoresTheStores
  intro s s' t code hp hp' hc hcode hT ho h
  cases hr : s.consumer.running with
  | false =>
    rw [step_of_idle hp hr] at h
    cases h
    exact ⟨s', step_of_idle hp' (hc ▸ hr), hc.symm, ho.symm⟩
  | true =>
    have hw := fetchWindow_of_bytes hcode
    have hw' : s'.fetchWindow = some (windowAt code s.consumer.pc) :=
      hc ▸ fetchWindow_of_bytes (hc ▸ hcode)
    rw [step_of_running hp hr, consumerStep_of_fetchWindow hw] at h
    rw [step_of_running hp' (hc ▸ hr), consumerStep_of_fetchWindow hw', ← hT]
    exact consumerDecode_congr hc hT ho h

/-- Settles O34, by the three kinds of step: a request is taken from the front and served, the Consumer's step gives its
one response, and an idle step changes nothing. -/
theorem stepFrame : Obligations.StepFrame := by
  unfold Obligations.StepFrame
  intro s t h
  rcases step_next h with ⟨r, rest, hp, hserve⟩ | ⟨_, _, hcons⟩ | ⟨_, _, rfl⟩
  · obtain ⟨hparams, hpending, hout⟩ := serve_frame hserve
    have hpop : s.pending = r :: t.pending := by rw [hp, hpending, State.setPending_pending]
    exact ⟨hparams, .inr ⟨r, hpop⟩, hout⟩
  · obtain ⟨_, resp, _, _, rfl⟩ := consumerStep_next hcons
    exact ⟨finishDecode_params s resp, .inl (finishDecode_pending s resp), .inr ⟨_, finishDecode_out s resp⟩⟩
  · exact ⟨rfl, .inl rfl, .inl rfl⟩

end Sys2Proof.Scope
end

section
/-! PROOFS. Laws of a computation that can fail, and of the reads that succeed. -/

namespace Sys2Proof

@[simp] theorem ok_bind {ε α β : Type} (a : α) (f : α → Except ε β) : (Except.ok a >>= f) = f a := rfl

@[simp] theorem error_bind {ε α β : Type} (e : ε) (f : α → Except ε β) :
    ((Except.error e : Except ε α) >>= f) = .error e := rfl

@[simp] theorem pure_eq_ok {ε α : Type} (a : α) : (pure a : Except ε α) = .ok a := rfl

/-- A sequence succeeds exactly where both of its parts do. -/
theorem bind_eq_ok_iff {ε α β : Type} {x : Except ε α} {f : α → Except ε β} {b : β} :
    x >>= f = .ok b ↔ ∃ a, x = .ok a ∧ f a = .ok b := by
  cases x <;> simp

/-- A single-byte read succeeds exactly at an index of the buffer, with the byte there (R162). -/
theorem byteAt_eq_ok_iff {w : List Byte} {i : Nat} {b : Byte} : byteAt w i = .ok b ↔ w[i]? = some b := by
  rcases byteAt_cases w i with ⟨c, hc, hb⟩ | ⟨hlen, hb⟩
  · simp [hc, hb]
  · simp [hb, hlen]

/-- A lookup for the opcode stage succeeds exactly where the table has that entry (R165). -/
theorem entryFor_eq_ok_iff {T : OpTable} {ctx : Ctx} {b : Byte} {e : Entry} :
    entryFor T ctx b = .ok e ↔ T.lookup ctx.table b = some e := by
  unfold entryFor
  cases T.lookup ctx.table b <;> simp

/-- A displacement read succeeds exactly at an index of the window, with the signed value there (R166). -/
theorem dispAt_eq_ok_iff {w : List Byte} {i : Nat} {d : Int} :
    dispAt w i = .ok d ↔ ∃ b, w[i]? = some b ∧ d = sext8 b := by
  unfold dispAt
  rcases byteAt_cases w i with ⟨b, hb, hread⟩ | ⟨hlen, hread⟩
  · simp [hb, hread, eq_comm]
  · simp [hread, hlen]

/-- Any two bytes or fewer are the bytes of an immediate. -/
theorem ImmBytes.exists_bytes_eq {bs : List Byte} (h : bs.length ≤ 2) : ∃ imm : ImmBytes, imm.bytes = bs := by
  match bs, h with
  | [], _ => exact ⟨.none, rfl⟩
  | [b], _ => exact ⟨.one b, rfl⟩
  | [lo, hi], _ => exact ⟨.two lo hi, rfl⟩

/-- An immediate that stands at its position is assembled from its bytes, whatever follows (R167). -/
theorem immAt_append {pre rest : List Byte} {imm : ImmBytes} {pos : Nat} {k : Fin 3}
    (hpos : pre.length = pos) (hk : k.val = imm.width) :
    immAt (pre ++ (imm.bytes ++ rest)) pos k = .ok (assembleImm imm.bytes) := by
  subst hpos
  rw [immAt_ok (by simp [hk])]
  simp [hk, ← ImmBytes.length_bytes]

/-- An immediate that is read stands at its position (R167). -/
theorem immAt_eq_ok {w : List Byte} {pos : Nat} {k : Fin 3} {v : Imm} (h : immAt w pos k = .ok v) :
    ∃ (imm : ImmBytes) (rest : List Byte),
      w.drop pos = imm.bytes ++ rest ∧ k.val = imm.width ∧ v = assembleImm imm.bytes := by
  by_cases hlen : pos + k.val ≤ w.length
  · rw [immAt_ok hlen] at h
    injection h with h
    have htake : ((w.drop pos).take k.val).length = k.val := by
      rw [List.length_take, List.length_drop]; omega
    obtain ⟨imm, himm⟩ := ImmBytes.exists_bytes_eq (bs := (w.drop pos).take k.val) (by omega)
    refine ⟨imm, (w.drop pos).drop k.val, ?_, ?_, ?_⟩
    · rw [himm, List.take_append_drop]
    · rw [← ImmBytes.length_bytes, himm, htake]
    · rw [himm, h]
  · rw [immAt_short (by omega)] at h
    cases h

end Sys2Proof
end

section
/-! PROOFS. The stores (10_state.md section 1): what a step writes of the ROM Store, the Header Register and the stage
register, and what follows for every step. -/

namespace Sys2Proof.Machine

/-- Where a request waits, a step serves the oldest one. -/
theorem step_of_request {s : State} {r : Request} {rest : List Request} (hp : s.pending = r :: rest) :
    step s = serve r (s.setPending rest) := by
  simp [step, hp]

/-- The strict constructor returns the header the lenient one returns (R132, R133). -/
theorem constructLenient_of_strict {C : ComponentTable} {buf : List Byte} {h : CartridgeHeader}
    (hs : constructStrict C buf = .ok h) : constructLenient C buf = .ok h := by
  unfold constructStrict at hs
  unfold constructLenient
  cases hp : parseHeader C buf with
  | error e => rw [hp] at hs; cases hs
  | ok p =>
    rw [hp] at hs
    simp only [ok_bind] at hs ⊢
    split at hs
    · exact hs
    · cases hs

/-- Whichever constructor succeeds, the header is the lenient one's (R133). -/
theorem constructLenient_of_construct {m : Mode} {C : ComponentTable} {buf : List Byte} {h : CartridgeHeader}
    (hc : constructHeader m C buf = .ok h) : constructLenient C buf = .ok h := by
  cases m with
  | strict => exact constructLenient_of_strict hc
  | lenient => exact hc

/-- `t`'s stores are those of `s`, or a LOAD wrote the empty ROM Store, or a construction that succeeded wrote the Header
Register. -/
def WritesStores (s t : State) : Prop :=
  (t.rom = s.rom ∧ t.hdr = s.hdr)
    ∨ (∃ bs rest, s.pending = .load (some bs) :: rest ∧ s.rom = none
        ∧ t.rom = some (Memory.ofBytes bs) ∧ t.hdr = s.hdr)
    ∨ (∃ m rest mem h, s.pending = .construct m :: rest ∧ s.rom = some mem
        ∧ constructHeader m s.params.components (Memory.bytes mem) = .ok h ∧ t.rom = s.rom ∧ t.hdr = some h)

/-- What a step writes of the stores. -/
theorem step_writesStores {s t : State} (h : step s = .next t) : WritesStores s t := by
  rcases step_next h with ⟨r, rest, hp, hserve⟩ | ⟨_, _, hcons⟩ | ⟨_, _, rfl⟩
  · rcases serve_next hserve with
      ⟨bs, rfl, hrom, rfl⟩ | ⟨m, mem, hd, rfl, hrom, hc, rfl⟩ | ⟨_, _, _, rfl⟩ | ⟨_, _, _, _, rfl⟩ | ⟨_, _, rfl⟩
    · exact .inr (.inl ⟨bs, rest, hp, hrom, rfl, rfl⟩)
    · exact .inr (.inr ⟨m, rest, mem, hd, hp, hrom, hc, rfl, rfl⟩)
    · exact .inl ⟨rfl, rfl⟩
    · exact .inl ⟨rfl, rfl⟩
    · exact .inl ⟨rfl, rfl⟩
  · obtain ⟨_, resp, _, _, rfl⟩ := consumerStep_next hcons
    exact .inl ⟨finishDecode_rom s resp, finishDecode_hdr s resp⟩
  · exact .inl ⟨rfl, rfl⟩

/-- A step leaves the stage register as it was or empties it. -/
theorem step_stage {s t : State} (h : step s = .next t) : t.st = s.st ∨ t.st = none := by
  rcases step_next h with ⟨_, _, _, hserve⟩ | ⟨_, _, hcons⟩ | ⟨_, _, rfl⟩
  · rcases serve_next hserve with
      ⟨_, _, _, rfl⟩ | ⟨_, _, _, _, _, _, rfl⟩ | ⟨_, _, _, rfl⟩ | ⟨_, _, _, _, rfl⟩ | ⟨_, _, rfl⟩
    · exact .inl rfl
    · exact .inl rfl
    · exact .inr rfl
    · exact .inl rfl
    · exact .inl rfl
  · obtain ⟨_, resp, _, _, rfl⟩ := consumerStep_next hcons
    exact .inr (finishDecode_st s resp)
  · exact .inl rfl

/-- A step leaves the parameters as they were. -/
theorem step_params {s t : State} (h : step s = .next t) : t.params = s.params :=
  (Scope.stepFrame s t h).1

/-- Over a state that meets the invariant, a header that a step leaves in the register is the loaded ROM's. -/
theorem State.Inv.headerOfRom_of_step {s t : State} (hs : s.Inv) (h : step s = .next t) {hd : CartridgeHeader}
    (ht : t.hdr = some hd) :
    ∃ m, t.rom = some m ∧ constructLenient t.params.components (Memory.bytes m) = .ok hd := by
  obtain ⟨_, _, hhdr⟩ := hs
  rw [step_params h]
  rcases step_writesStores h with ⟨hr, hh⟩ | ⟨_, _, _, hr, _, hh⟩ | ⟨_, _, mem, _, _, hr, hc, hrom, hh⟩
  · rw [hr]; exact hhdr hd (hh ▸ ht)
  · obtain ⟨m, hm, _⟩ := hhdr hd (hh ▸ ht)
    rw [hr] at hm; cases hm
  · rw [hh] at ht; cases ht
    exact ⟨mem, hrom.trans hr, constructLenient_of_construct hc⟩

end Sys2Proof.Machine

namespace Sys2Proof.BlockState

open Sys2Proof.Machine

/-- Settles O42, clause by clause: a step at most empties the stage register; LOAD writes the canonical form; and a header
that a construction writes is the one the lenient constructor gives for the ROM it read. -/
theorem stepKeepsTheInvariant : Obligations.StepKeepsTheInvariant := by
  unfold Obligations.StepKeepsTheInvariant
  intro s t hs h
  have ⟨hst, hwf, _⟩ := hs
  refine ⟨?_, ?_, fun hd => hs.headerOfRom_of_step h⟩
  · exact (step_stage h).elim (·.trans hst) id
  · intro m hm
    rcases step_writesStores h with ⟨hr, _⟩ | ⟨bs, _, _, _, hr, _⟩ | ⟨_, _, _, _, _, _, _, hr, _⟩
    · exact hwf m (hr ▸ hm)
    · rw [hr] at hm; cases hm
      exact Memory.wf_ofBytes bs
    · exact hwf m (hr ▸ hm)

/-- Settles O43: a second construction reads the same ROM, so both headers are the lenient constructor's of it. -/
theorem headerRegisterNeverChanges : Obligations.HeaderRegisterNeverChanges := by
  unfold Obligations.HeaderRegisterNeverChanges
  intro s t hd hs hh h
  rcases step_writesStores h with ⟨_, ht⟩ | ⟨_, _, _, _, _, ht⟩ | ⟨_, _, mem, hd', _, hr, hc, _, ht⟩
  · rw [ht, hh]
  · rw [ht, hh]
  · obtain ⟨_, _, hhdr⟩ := hs
    obtain ⟨m, hm, hl⟩ := hhdr hd hh
    rw [hr] at hm; cases hm
    rw [constructLenient_of_construct hc] at hl; cases hl
    exact ht

/-- Settles O44, by what a step writes of the stores. -/
theorem onlyConstructWritesTheHeader : Obligations.OnlyConstructWritesTheHeader := by
  unfold Obligations.OnlyConstructWritesTheHeader
  intro s t h
  rcases step_writesStores h with ⟨_, hh⟩ | ⟨_, _, _, _, _, hh⟩ | ⟨m, rest, mem, hd, hp, hr, hc, _, hh⟩
  · exact .inl hh
  · exact .inl hh
  · exact .inr ⟨m, rest, mem, hd, hp, hr, hc, hh⟩

/-- Settles O45, by what a step writes of the stores. -/
theorem onlyLoadWritesTheRomStore : Obligations.OnlyLoadWritesTheRomStore := by
  unfold Obligations.OnlyLoadWritesTheRomStore
  intro s t h
  rcases step_writesStores h with ⟨hr, _⟩ | ⟨bs, rest, hp, hnone, hr, _⟩ | ⟨_, _, _, _, _, _, _, hr, _⟩
  · exact .inl hr
  · exact .inr ⟨bs, rest, hp, hnone, hr⟩
  · exact .inl hr

/-- Settles O35: LOAD into the empty store writes the memory of its bytes, which the laws of memory describe. -/
theorem loadWritesTheRomStoreOnce : Obligations.LoadWritesTheRomStoreOnce := by
  unfold Obligations.LoadWritesTheRomStoreOnce
  intro s src rest hp
  have hstep : step s = serveLoad src (s.setPending rest) := step_of_request hp
  constructor
  · intro hrom
    cases src with
    | some bs =>
      refine ⟨Memory.ofBytes bs, ?_, Memory.wf_ofBytes bs, Memory.size_ofBytes bs, Memory.read_ofBytes bs⟩
      simp [hstep, serveLoad, hrom, State.setPending, State.setRom, State.respond]
    | none => simp [hstep, serveLoad, hrom, State.setPending, State.respond]
  · intro hrom
    obtain ⟨m, hm⟩ := Option.ne_none_iff_exists'.1 hrom
    simp [hstep, serveLoad, hm]

end Sys2Proof.BlockState
end

section
/-! PROOFS. The stage machine and the forms (42_decoder.md): the stages of R162 answer a window as the form rules R171 to
R176 do. -/

namespace Sys2Proof

/-- From the opcode byte at index `n` to the end of a record: the entry, then the immediate (R165, R167, R168). -/
def opcodeForm (T : OpTable) (ctx : Ctx) (d : Option Int) (n : Nat) (w : List Byte) :
    Except DecodeError DecodedInstruction := do
  let ob ← byteAt w n
  let e ← entryFor T ctx ob
  let imm ← immAt w (n + 1) e.imm
  return { ctx := ctx, opcode := ob, name := e.name, disp := d, imm := imm, length := n + 1 + e.imm.val }

theorem formMain_eq (T : OpTable) (w : List Byte) : formMain T w = opcodeForm T .none none 0 w := rfl
theorem formCb_eq (T : OpTable) (w : List Byte) : formCb T w = opcodeForm T .cb none 1 w := rfl
theorem formEd_eq (T : OpTable) (w : List Byte) : formEd T w = opcodeForm T .ed none 1 w := rfl
theorem formIdx_eq (T : OpTable) (p : IdxPrefix) (w : List Byte) :
    formIdx T p w = opcodeForm T p.ctx none 1 w := rfl

@[simp] theorem Stage.run_done (T : OpTable) (w : List Byte) (k : Nat) (r : DecodedInstruction) :
    Stage.run T w k (.done r) = .done r := by
  induction k with
  | zero => rfl
  | succ k ih => exact ih

@[simp] theorem Stage.run_failed (T : OpTable) (w : List Byte) (k : Nat) (e : DecodeError) :
    Stage.run T w k (.failed e) = .failed e := by
  induction k with
  | zero => rfl
  | succ k ih => exact ih

/-- Over a read that fails the run ends in its error, over one that succeeds it goes on (R169). -/
theorem Stage.response_run_orFail {α : Type} (T : OpTable) (w : List Byte) (k : Nat) (x : Except DecodeError α)
    (f : α → Stage) :
    (Stage.run T w k (.orFail x f)).response w = x >>= fun a => (Stage.run T w k (f a)).response w := by
  cases x with
  | ok a => rfl
  | error e => simp [Stage.orFail, Stage.response]

/-- The run from the immediate stage (R167). -/
theorem Stage.response_run_imm (T : OpTable) (w : List Byte) (k : Nat) (ctx : Ctx) (pos : Nat) (ob : Byte)
    (e : Entry) (d : Option Int) :
    (Stage.run T w (k + 1) (.imm ctx pos ob e d)).response w =
      immAt w pos e.imm >>= fun imm =>
        .ok { ctx := ctx, opcode := ob, name := e.name, disp := d, imm := imm, length := pos + e.imm.val } := by
  rw [Stage.run, Stage.next, Stage.response_run_orFail]
  simp [Stage.response]

/-- The run from the opcode stage of a context in which no displacement can follow the opcode (R165). -/
theorem Stage.response_run_opcode (T : OpTable) (w : List Byte) (k : Nat) {ctx : Ctx} (pos : Nat) (d : Option Int)
    (hctx : ¬ (ctx = .dd ∨ ctx = .fd)) :
    (Stage.run T w (k + 2) (.opcode ctx pos d)).response w = opcodeForm T ctx d pos w := by
  rw [Stage.run, Stage.next, Stage.response_run_orFail]
  simp only [Stage.response_run_orFail, hctx, false_and, if_false, Stage.response_run_imm]
  rfl

/-- The run from the opcode stage after one `DD` or `FD`: the entry's `idxrel` tells the form (R165, R174, R175). -/
theorem Stage.response_run_idxOpcode (T : OpTable) (w : List Byte) (k : Nat) (p : IdxPrefix) :
    (Stage.run T w (k + 3) (.opcode p.ctx 1 none)).response w = (do
      let b ← byteAt w 1
      let e ← entryFor T p.ctx b
      if e.idxrel then formIdxD T p w else formIdx T p w) := by
  have hctx : p.ctx = .dd ∨ p.ctx = .fd := by cases p <;> simp [IdxPrefix.ctx]
  rw [Stage.run, Stage.next, Stage.response_run_orFail]
  cases hb : byteAt w 1 with
  | error e => rfl
  | ok b =>
    simp only [ok_bind, Stage.response_run_orFail]
    cases he : entryFor T p.ctx b with
    | error e => rfl
    | ok e =>
      simp only [ok_bind, hctx, true_and]
      cases hx : e.idxrel with
      | false =>
        simp [Stage.response_run_imm, formIdx, hb, he]
      | true =>
        simp only [if_true]
        rw [Stage.run, Stage.next, Stage.response_run_orFail]
        simp [Stage.response_run_imm, formIdxD, hb, he]

/-- R82: an entry of IDXCB has no immediate. -/
theorem OpTable.imm_eq_zero_of_idxcb {T : OpTable} (hT : T.wf = true) {b : Byte} {e : Entry}
    (he : T.lookup .idxcb b = some e) : e.imm = 0 := by
  have hok := T.wf_lookup hT he
  simp only [entryOk, Bool.and_eq_true, decide_eq_true_eq] at hok
  exact Fin.ext hok.2

@[simp] theorem IdxPrefix.table_ctxCB (p : IdxPrefix) : p.ctxCB.table = .idxcb := by cases p <;> rfl

@[simp] theorem IdxPrefix.table_ctx (p : IdxPrefix) : p.ctx.table = .idx := by cases p <;> rfl

@[simp] theorem IdxPrefix.prefixCount_ctxCB (p : IdxPrefix) : p.ctxCB.prefixCount = 2 := by cases p <;> rfl

@[simp] theorem IdxPrefix.prefixCount_ctx (p : IdxPrefix) : p.ctx.prefixCount = 1 := by cases p <;> rfl

/-- The run from the displacement stage after `DD CB` or `FD CB`; R82 leaves no immediate to read (R166, R176). -/
theorem Stage.response_run_idxCb {T : OpTable} (hT : T.wf = true) (w : List Byte) (k : Nat) (p : IdxPrefix) :
    (Stage.run T w (k + 3) (.disp p.ctxCB 2 none)).response w = formIdxCb T p w := by
  have hctx : ¬ (p.ctxCB = .dd ∨ p.ctxCB = .fd) := by cases p <;> simp [IdxPrefix.ctxCB]
  rw [Stage.run, Stage.next, Stage.response_run_orFail]
  simp only [Stage.response_run_opcode T w k _ _ hctx, formIdxCb, opcodeForm]
  congr 1
  funext d
  cases hb : byteAt w 3 with
  | error e => rfl
  | ok b =>
    simp only [ok_bind]
    cases he : entryFor T p.ctxCB b with
    | error e => rfl
    | ok e =>
      have hlen : 4 ≤ w.length := (List.getElem?_eq_some_iff.1 (byteAt_eq_ok_iff.1 hb)).1
      have himm : e.imm = 0 := T.imm_eq_zero_of_idxcb hT (p.table_ctxCB ▸ entryFor_eq_ok_iff.1 he)
      have hread : immAt w 4 0 = .ok .imm0 := immAt_ok hlen
      simp [himm, hread]

/-- The run from the second byte after `DD` or `FD` (R75, R163, R164, R180). -/
theorem Stage.response_run_prefix2 {T : OpTable} (hT : T.wf = true) (w : List Byte) (p : IdxPrefix) :
    (Stage.run T w 4 (.prefix2 p)).response w = (do
      let b1 ← byteAt w 1
      if b1 = 0xCB then formIdxCb T p w
      else if isBadSecondPrefix b1 then .error (.unknownPrefix b1)
      else
        let e ← entryFor T p.ctx b1
        if e.idxrel then formIdxD T p w else formIdx T p w) := by
  rw [Stage.run, Stage.next, Stage.response_run_orFail]
  cases hb : byteAt w 1 with
  | error e => rfl
  | ok b1 =>
    simp only [ok_bind]
    split
    · exact Stage.response_run_idxCb hT w 0 p
    · split
      · simp [Stage.response]
      · rw [Stage.response_run_idxOpcode T w 0 p, hb, ok_bind]

/-- Under an admissible OPTABLE the stage machine of R162 answers every window as the form rules do. -/
theorem decodeWindow_eq_formDecode {T : OpTable} (hT : T.wf = true) (w : List Byte) :
    decodeWindow T w = formDecode T w := by
  unfold decodeWindow formDecode Stage.maxTransitions
  rw [Stage.run, Stage.next, Stage.response_run_orFail]
  congr 1
  funext b0
  split
  · exact Stage.response_run_opcode T w 2 _ _ (by simp)
  split
  · exact Stage.response_run_opcode T w 2 _ _ (by simp)
  by_cases hdd : b0 = 0xDD
  · simpa [hdd] using Stage.response_run_prefix2 hT w .dd
  by_cases hfd : b0 = 0xFD
  · simpa [hfd] using Stage.response_run_prefix2 hT w .fd
  · simp only [hdd, hfd, or_self, if_false]
    exact Stage.response_run_opcode T w 2 _ _ (by simp)

end Sys2Proof
end

section
/-! PROOFS. Tables, operands and forms (30_encoding.md, 42_decoder.md section 4): what an admissible OPTABLE says of an
entry, the forms over operands in place, and which form a window has. -/

namespace Sys2Proof

/-! ### Tables -/

/-- R81: no entry outside IDX is index-relative. -/
theorem OpTable.idxrel_eq_false {T : OpTable} (hT : T.wf = true) {t : Table} (ht : t ≠ .idx) {b : Byte} {e : Entry}
    (he : T.lookup t b = some e) : e.idxrel = false := by
  have hok := T.wf_lookup hT he
  cases t with
  | idx => exact absurd rfl ht
  | main => simp_all [entryOk]
  | cb => simpa [entryOk] using hok
  | ed => simpa [entryOk] using hok
  | idxcb => simp_all [entryOk]

/-- A byte after `DD` or `FD` that is neither `CB` nor illegal there is none of the four that R74 names. -/
theorem isPrefixByte_eq_false {b : Byte} (hcb : b ≠ 0xCB) (hbad : isBadSecondPrefix b = false) :
    isPrefixByte b = false := by
  simp_all [isPrefixByte, isBadSecondPrefix]

/-! ### Operands -/

/-- R76: a displacement lies in [-128, 127]. -/
theorem sext8_bounds (b : Byte) : -128 ≤ sext8 b ∧ sext8 b ≤ 127 := by
  have hb : b.toNat < 256 := b.isLt
  unfold sext8
  split <;> omega

/-- R76: the displacement keeps its byte. -/
@[simp] theorem dispByte_sext8 (b : Byte) : dispByte (sext8 b) = b := by
  have hb : sext8 b = b.toInt := by
    rw [BitVec.toInt_eq_toNat_cond, sext8]
    split <;> split <;> omega
  rw [dispByte, hb, BitVec.ofInt_toInt]

/-- R77: a 2-byte immediate is little-endian. -/
theorem assembleImm_value {bs : List Byte} {lo hi : Byte} {v : Half} (h : assembleImm bs = .imm16 lo hi v) :
    v = u16le lo hi := by
  match bs, h with
  | _ :: _ :: _, h => cases h; rfl

/-! ### Records -/

/-- The record of an opcode byte with its entry, displacement byte and immediate bytes (R26, R168). -/
def recordOf (ctx : Ctx) (op : Byte) (e : Entry) (d : Option Byte) (imm : ImmBytes) : DecodedInstruction :=
  { ctx := ctx, opcode := op, name := e.name, disp := d.map sext8, imm := assembleImm imm.bytes
    length := 1 + ctx.prefixCount + (if d.isSome then 1 else 0) + imm.width }

/-- An opcode byte, its entry's immediate and anything behind them complete a record. -/
theorem opcodeForm_append {T : OpTable} {ctx : Ctx} {op : Byte} {e : Entry} {imm : ImmBytes} (d : Option Int)
    (pre rest : List Byte) (he : T.lookup ctx.table op = some e) (hk : e.imm.val = imm.width) :
    opcodeForm T ctx d pre.length (pre ++ op :: (imm.bytes ++ rest)) =
      .ok { ctx := ctx, opcode := op, name := e.name, disp := d, imm := assembleImm imm.bytes
            length := pre.length + 1 + e.imm.val } := by
  have hop : byteAt (pre ++ op :: (imm.bytes ++ rest)) pre.length = .ok op := by
    simp [byteAt_eq_ok_iff]
  have himm := immAt_append (pre := pre ++ [op]) (rest := rest) (pos := pre.length + 1) (by simp) hk
  rw [List.append_assoc, List.singleton_append] at himm
  simp [opcodeForm, hop, entryFor_some he, himm]

/-- F-IDXD over its operands in place (R175). -/
theorem formIdxD_append {T : OpTable} {p : IdxPrefix} {op : Byte} {e : Entry} {imm : ImmBytes} (d : Byte)
    (rest : List Byte) (he : T.lookup .idx op = some e) (hk : e.imm.val = imm.width) :
    formIdxD T p (p.byte :: op :: d :: (imm.bytes ++ rest)) = .ok (recordOf p.ctx op e (some d) imm) := by
  have hop : byteAt (p.byte :: op :: d :: (imm.bytes ++ rest)) 1 = .ok op := byteAt_eq_ok_iff.2 rfl
  have hd : dispAt (p.byte :: op :: d :: (imm.bytes ++ rest)) 2 = .ok (sext8 d) := dispAt_eq_ok_iff.2 ⟨d, rfl, rfl⟩
  have himm : immAt (p.byte :: op :: d :: (imm.bytes ++ rest)) 3 e.imm = .ok (assembleImm imm.bytes) :=
    immAt_append (pre := [p.byte, op, d]) rfl hk
  simp [formIdxD, hop, hd, himm, entryFor_some (p.table_ctx.symm ▸ he), recordOf, hk]

/-- F-IDXCB over its operands in place (R176). -/
theorem formIdxCb_append {T : OpTable} {p : IdxPrefix} {op : Byte} {e : Entry} (q d : Byte)
    (rest : List Byte) (he : T.lookup .idxcb op = some e) :
    formIdxCb T p (p.byte :: q :: d :: op :: rest) = .ok (recordOf p.ctxCB op e (some d) .none) := by
  have hd : dispAt (p.byte :: q :: d :: op :: rest) 2 = .ok (sext8 d) := dispAt_eq_ok_iff.2 ⟨d, rfl, rfl⟩
  have hop : byteAt (p.byte :: q :: d :: op :: rest) 3 = .ok op := byteAt_eq_ok_iff.2 rfl
  simp [formIdxCb, hop, hd, entryFor_some (p.table_ctxCB.symm ▸ he), recordOf, ImmBytes.bytes,
    ImmBytes.width, assembleImm]

/-! ### The form of a window (R74, R75, R79) -/

/-- A first byte that R74 does not name is the opcode byte. -/
theorem formDecode_main (T : OpTable) {b : Byte} (hb : isPrefixByte b = false) (w : List Byte) :
    formDecode T (b :: w) = formMain T (b :: w) := by
  simp_all [isPrefixByte, formDecode]

theorem formDecode_cb (T : OpTable) (w : List Byte) : formDecode T (0xCB :: w) = formCb T (0xCB :: w) := by
  simp [formDecode]

theorem formDecode_ed (T : OpTable) (w : List Byte) : formDecode T (0xED :: w) = formEd T (0xED :: w) := by
  simp [formDecode]

/-- After `DD` or `FD` the second byte tells the form. -/
theorem formDecode_prefix (T : OpTable) (p : IdxPrefix) (b : Byte) (w : List Byte) :
    formDecode T (p.byte :: b :: w) =
      if b = 0xCB then formIdxCb T p (p.byte :: b :: w)
      else if isBadSecondPrefix b then .error (.unknownPrefix b)
      else entryFor T p.ctx b >>= fun e =>
        if e.idxrel then formIdxD T p (p.byte :: b :: w) else formIdx T p (p.byte :: b :: w) := by
  have hb (a : Byte) : byteAt (a :: b :: w) 1 = .ok b := byteAt_eq_ok_iff.2 rfl
  cases p <;> simp [formDecode, IdxPrefix.byte, hb]

theorem formDecode_idxCb (T : OpTable) (p : IdxPrefix) (w : List Byte) :
    formDecode T (p.byte :: 0xCB :: w) = formIdxCb T p (p.byte :: 0xCB :: w) := by
  simp [formDecode_prefix]

theorem formDecode_badPrefix (T : OpTable) (p : IdxPrefix) {q : Byte} (hq : isBadSecondPrefix q = true)
    (w : List Byte) : formDecode T (p.byte :: q :: w) = .error (.unknownPrefix q) := by
  have hcb : q ≠ 0xCB := by rintro rfl; cases hq
  rw [formDecode_prefix, if_neg hcb, if_pos hq]

theorem formDecode_idx (T : OpTable) (p : IdxPrefix) {op : Byte} (hop : isPrefixByte op = false) {e : Entry}
    (he : T.lookup .idx op = some e) (w : List Byte) :
    formDecode T (p.byte :: op :: w) =
      if e.idxrel then formIdxD T p (p.byte :: op :: w) else formIdx T p (p.byte :: op :: w) := by
  have hcb : op ≠ 0xCB := by rintro rfl; cases hop
  have hbad : ¬ isBadSecondPrefix op = true := by simp_all [isPrefixByte, isBadSecondPrefix]
  rw [formDecode_prefix, if_neg hcb, if_neg hbad, entryFor_some (p.table_ctx.symm ▸ he), ok_bind]

end Sys2Proof
end

section
/-! PROOFS. The record of a well-formed instruction (R26, R168): what its meaning answers and its bytes decode to. -/

namespace Sys2Proof.Machine

/-- A record of at most four bytes is sound where it has a displacement as its context asks. -/
theorem recordOf_sound {ctx : Ctx} {op : Byte} {e : Entry} {d : Option Byte} {imm : ImmBytes}
    (hlen : (recordOf ctx op e d imm).length ≤ 4)
    (hindex : d.isSome = true → ctx ≠ .none ∧ ctx ≠ .cb ∧ ctx ≠ .ed)
    (hdouble : ctx = .ddcb ∨ ctx = .fdcb → d.isSome = true) :
    DecodedInstruction.Sound (recordOf ctx op e d imm) := by
  have hwidth : (assembleImm imm.bytes).width = imm.width := by cases imm <;> rfl
  refine ⟨?_, hlen, ?_, ?_, ?_, ?_, fun lo hi v => assembleImm_value⟩
  · simp only [recordOf]; omega
  · simp [recordOf, DecodedInstruction.lengthBySum, hwidth]
  · intro x hx
    obtain ⟨b, _, rfl⟩ := Option.map_eq_some_iff.1 hx
    exact sext8_bounds b
  · simpa [recordOf] using hindex
  · simpa [recordOf] using hdouble

/-- `r` is the record of the instruction `i`: what its meaning answers and what its bytes decode to, whatever follows. -/
structure IsRecordOf (T : OpTable) (i : Instr) (r : DecodedInstruction) : Prop where
  response : responseOf T i = .ok r
  window (rest : List Byte) : formDecode T (encode i ++ rest) = .ok r
  length : r.length = (encode i).length
  sound : DecodedInstruction.Sound r
  instr : Instr.ofRecord r = i

/-- A well-formed instruction is one to four bytes long (R8, R80). -/
theorem encode_length {T : OpTable} (hT : T.wf = true) {i : Instr} (hi : i.wf T = true) :
    1 ≤ (encode i).length ∧ (encode i).length ≤ 4 := by
  cases i with
  | main op imm => exact Laws.EncodedLength.main op imm T hT hi
  | cb op imm => exact Laws.EncodedLength.cb op imm T hT hi
  | ed op imm => exact Laws.EncodedLength.ed op imm T hT hi
  | dd op imm => exact Laws.EncodedLength.dd op imm T hT hi
  | fd op imm => exact Laws.EncodedLength.fd op imm T hT hi
  | ddIdx op d imm => exact Laws.EncodedLength.ddIdx op d imm T hT hi
  | fdIdx op d imm => exact Laws.EncodedLength.fdIdx op d imm T hT hi
  | ddcb d op => exact Laws.EncodedLength.ddcb d op T hT hi
  | fdcb d op => exact Laws.EncodedLength.fdcb d op T hT hi
  | nop => exact Laws.EncodedLength.nop T hT hi
  | cb00 => exact Laws.EncodedLength.cb00 T hT hi
  | dd09 => exact Laws.EncodedLength.dd09 T hT hi
  | unknownPrefix p q => exact Laws.EncodedLength.unknownPrefix p q T hT hi

section
variable {T : OpTable} {op : Byte} {e : Entry} {imm : ImmBytes} (hk : e.imm.val = imm.width)
  (rest : List Byte)
include hk

/-- The window of an unprefixed instruction (R171). -/
theorem formMain_append (he : T.lookup .main op = some e) :
    formMain T (op :: (imm.bytes ++ rest)) = .ok (recordOf .none op e none imm) := by
  have h := opcodeForm_append (ctx := .none) none [] rest he hk
  simpa [formMain_eq, recordOf, Ctx.prefixCount, hk] using h

/-- The window of an instruction under `CB` (R172). -/
theorem formCb_append (he : T.lookup .cb op = some e) :
    formCb T (0xCB :: op :: (imm.bytes ++ rest)) = .ok (recordOf .cb op e none imm) := by
  have h := opcodeForm_append (ctx := .cb) none [0xCB] rest he hk
  simpa [formCb_eq, recordOf, Ctx.prefixCount, hk] using h

/-- The window of an instruction under `ED` (R173). -/
theorem formEd_append (he : T.lookup .ed op = some e) :
    formEd T (0xED :: op :: (imm.bytes ++ rest)) = .ok (recordOf .ed op e none imm) := by
  have h := opcodeForm_append (ctx := .ed) none [0xED] rest he hk
  simpa [formEd_eq, recordOf, Ctx.prefixCount, hk] using h

/-- The window of an instruction under one `DD` or `FD` (R174). -/
theorem formIdx_append (p : IdxPrefix) (he : T.lookup .idx op = some e) :
    formIdx T p (p.byte :: op :: (imm.bytes ++ rest)) = .ok (recordOf p.ctx op e none imm) := by
  have h := opcodeForm_append (ctx := p.ctx) none [p.byte] rest (p.table_ctx.symm ▸ he) hk
  simpa [formIdx_eq, recordOf, hk] using h

end

/-- The instruction under one `DD` or `FD` (R174). -/
def idxInstr : IdxPrefix → Byte → ImmBytes → Instr
  | .dd => .dd
  | .fd => .fd

/-- The index-relative instruction under one `DD` or `FD` (R175). -/
def idxDInstr : IdxPrefix → Byte → Byte → ImmBytes → Instr
  | .dd => .ddIdx
  | .fd => .fdIdx

/-- The instruction under `DD CB` or `FD CB` (R176). -/
def idxCbInstr : IdxPrefix → Byte → Byte → Instr
  | .dd => .ddcb
  | .fd => .fdcb

/-- The form an instruction's meaning and its window share gives the instruction's record. -/
theorem IsRecordOf.of_form {T : OpTable} (hT : T.wf = true) {i : Instr} (hi : i.wf T = true) {ctx : Ctx} {op : Byte}
    {e : Entry} {d : Option Byte} {imm : ImmBytes} (form : List Byte → Except DecodeError DecodedInstruction)
    (hresponse : responseOf T i = form (encode i))
    (hroute : ∀ rest, formDecode T (encode i ++ rest) = form (encode i ++ rest))
    (hform : ∀ rest, form (encode i ++ rest) = .ok (recordOf ctx op e d imm))
    (hlen : (recordOf ctx op e d imm).length = (encode i).length)
    (hindex : d.isSome = true → ctx ≠ .none ∧ ctx ≠ .cb ∧ ctx ≠ .ed)
    (hdouble : ctx = .ddcb ∨ ctx = .fdcb → d.isSome = true)
    (hinstr : Instr.ofRecord (recordOf ctx op e d imm) = i) : IsRecordOf T i (recordOf ctx op e d imm) where
  response := by simpa [hresponse] using hform []
  window rest := (hroute rest).trans (hform rest)
  length := hlen
  sound := recordOf_sound (hlen ▸ (encode_length hT hi).2) hindex hdouble
  instr := hinstr

/-- A well-formed instruction under one `DD` or `FD` has a record (R174, R179). -/
theorem exists_isRecordOf_idx {T : OpTable} (hT : T.wf = true) (p : IdxPrefix) {op : Byte} {imm : ImmBytes}
    (hi : (idxInstr p op imm).wf T = true) : ∃ r, IsRecordOf T (idxInstr p op imm) r := by
  have hop : isPrefixByte op = false ∧ T.fits .idx op false imm = true := by
    cases p <;> simp_all [idxInstr, Instr.wf]
  obtain ⟨hp, hfit⟩ := hop
  obtain ⟨e, he, hx, hk⟩ := OpTable.fits_iff.1 hfit
  have henc : encode (idxInstr p op imm) = p.byte :: op :: imm.bytes := by cases p <;> rfl
  refine ⟨recordOf p.ctx op e none imm, .of_form hT hi (formIdx T p) ?_ ?_ ?_ ?_ (by simp) ?_ ?_⟩
  · cases p <;> rfl
  · intro rest
    rw [henc, List.cons_append, List.cons_append, formDecode_idx T p hp he, hx]; rfl
  · intro rest
    simpa [henc] using formIdx_append hk rest p he
  · simp [recordOf, henc]; omega
  · cases p <;> simp [IdxPrefix.ctx]
  · cases p <;> simp_all [recordOf, IdxPrefix.ctx, Instr.ofRecord, idxInstr, Instr.wf]

/-- A well-formed index-relative instruction has a record (R175). -/
theorem exists_isRecordOf_idxD {T : OpTable} (hT : T.wf = true) (p : IdxPrefix) {op d : Byte} {imm : ImmBytes}
    (hi : (idxDInstr p op d imm).wf T = true) : ∃ r, IsRecordOf T (idxDInstr p op d imm) r := by
  have hop : isPrefixByte op = false ∧ T.fits .idx op true imm = true := by
    cases p <;> simp_all [idxDInstr, Instr.wf]
  obtain ⟨hp, hfit⟩ := hop
  obtain ⟨e, he, hx, hk⟩ := OpTable.fits_iff.1 hfit
  have henc : encode (idxDInstr p op d imm) = p.byte :: op :: d :: imm.bytes := by cases p <;> rfl
  refine ⟨recordOf p.ctx op e (some d) imm, .of_form hT hi (formIdxD T p) ?_ ?_ ?_ ?_ ?_ (by simp) ?_⟩
  · cases p <;> rfl
  · intro rest
    rw [henc, List.cons_append, List.cons_append, formDecode_idx T p hp he, hx]; rfl
  · intro rest
    simpa [henc] using formIdxD_append d rest he hk
  · simp [recordOf, henc]; omega
  · cases p <;> simp [IdxPrefix.ctx]
  · cases p <;> simp [recordOf, IdxPrefix.ctx, Instr.ofRecord, idxDInstr]

/-- A well-formed instruction under `DD CB` or `FD CB` has a record (R176). -/
theorem exists_isRecordOf_idxCb {T : OpTable} (hT : T.wf = true) (p : IdxPrefix) {d op : Byte}
    (hi : (idxCbInstr p d op).wf T = true) : ∃ r, IsRecordOf T (idxCbInstr p d op) r := by
  have hfit : T.fits .idxcb op false .none = true := by cases p <;> exact hi
  obtain ⟨e, he, hx, hk⟩ := OpTable.fits_iff.1 hfit
  have henc : encode (idxCbInstr p d op) = [p.byte, 0xCB, d, op] := by cases p <;> rfl
  refine ⟨recordOf p.ctxCB op e (some d) .none, .of_form hT hi (formIdxCb T p) ?_ ?_ ?_ ?_ ?_ (by simp) ?_⟩
  · cases p <;> rfl
  · intro rest
    rw [henc]
    exact formDecode_idxCb T p _
  · intro rest
    rw [henc]
    exact formIdxCb_append _ d rest he
  · cases p <;> rfl
  · cases p <;> simp [IdxPrefix.ctxCB]
  · cases p <;> simp [recordOf, IdxPrefix.ctxCB, Instr.ofRecord, idxCbInstr]

/-- Every well-formed instruction but the one of R180, whose meaning is an error, has a record. -/
theorem exists_isRecordOf {T : OpTable} (hT : T.wf = true) {i : Instr} (hi : i.wf T = true)
    (hlegal : ∀ p q, i ≠ .unknownPrefix p q) : ∃ r, IsRecordOf T i r := by
  cases i with
  | main op imm =>
    have ⟨⟨hp, h0⟩, hfit⟩ : (isPrefixByte op = false ∧ op ≠ 0x00) ∧ T.fits .main op false imm = true := by
      simpa [Instr.wf] using hi
    obtain ⟨e, he, hx, hk⟩ := OpTable.fits_iff.1 hfit
    exact ⟨_, .of_form hT hi (formMain T) rfl
      (hroute := fun rest => formDecode_main T hp _) (hform := fun rest => formMain_append hk rest he)
      (hlen := by simp [recordOf, encode, Ctx.prefixCount]; omega) (hindex := by simp) (hdouble := by simp)
      (hinstr := by simp only [Instr.ofRecord, recordOf, if_neg h0, assembleImm_bytes])⟩
  | cb op imm =>
    have ⟨h0, hfit⟩ : op ≠ 0x00 ∧ T.fits .cb op false imm = true := by simpa [Instr.wf] using hi
    obtain ⟨e, he, hx, hk⟩ := OpTable.fits_iff.1 hfit
    exact ⟨_, .of_form hT hi (formCb T) rfl
      (hroute := fun rest => formDecode_cb T _) (hform := fun rest => formCb_append hk rest he)
      (hlen := by simp [recordOf, encode, Ctx.prefixCount]; omega) (hindex := by simp) (hdouble := by simp)
      (hinstr := by simp only [Instr.ofRecord, recordOf, if_neg h0, assembleImm_bytes])⟩
  | ed op imm =>
    obtain ⟨e, he, hx, hk⟩ := OpTable.fits_iff.1 hi
    exact ⟨_, .of_form hT hi (formEd T) rfl
      (hroute := fun rest => formDecode_ed T _) (hform := fun rest => formEd_append hk rest he)
      (hlen := by simp [recordOf, encode, Ctx.prefixCount]; omega) (hindex := by simp) (hdouble := by simp)
      (hinstr := by simp only [Instr.ofRecord, recordOf, assembleImm_bytes])⟩
  | dd op imm => exact exists_isRecordOf_idx hT .dd hi
  | fd op imm => exact exists_isRecordOf_idx hT .fd hi
  | ddIdx op d imm => exact exists_isRecordOf_idxD hT .dd hi
  | fdIdx op d imm => exact exists_isRecordOf_idxD hT .fd hi
  | ddcb d op => exact exists_isRecordOf_idxCb hT .dd hi
  | fdcb d op => exact exists_isRecordOf_idxCb hT .fd hi
  | nop =>
    exact ⟨recordOf .none 0x00 _ none .none, .of_form hT hi (formMain T) rfl
      (hroute := fun rest => formDecode_main T rfl _)
      (hform := fun rest => formMain_append (imm := .none) rfl rest T.lookup_nop)
      (hlen := rfl) (hindex := by simp) (hdouble := by simp) (hinstr := rfl)⟩
  | cb00 =>
    exact ⟨recordOf .cb 0x00 _ none .none, .of_form hT hi (formCb T) rfl
      (hroute := fun rest => formDecode_cb T _)
      (hform := fun rest => formCb_append (imm := .none) rfl rest T.lookup_cb00)
      (hlen := rfl) (hindex := by simp) (hdouble := by simp) (hinstr := rfl)⟩
  | dd09 =>
    exact ⟨recordOf .dd 0x09 _ none .none, .of_form hT hi (formIdx T .dd) rfl
      (hroute := fun rest => formDecode_idx T .dd rfl T.lookup_idx09 _)
      (hform := fun rest => formIdx_append (imm := .none) rfl rest .dd T.lookup_idx09)
      (hlen := rfl) (hindex := by simp) (hdouble := by simp) (hinstr := rfl)⟩
  | unknownPrefix p q => exact absurd rfl (hlegal p q)

end Sys2Proof.Machine
end

section
/-! PROOFS. The windows that decode (42_decoder.md): each begins with the bytes of a well-formed instruction, so a
window's decode is the response of the instruction it spells. -/

namespace Sys2Proof.Machine

/-! ### What a form that succeeds has read -/

theorem getElem?_drop_cons {w : List Byte} {n : Nat} {b : Byte} (h : w[n]? = some b) :
    w.drop n = b :: w.drop (n + 1) := by
  rw [List.drop_eq_getElem?_toList_append, h]; rfl

/-- From the opcode byte on: the opcode of an entry and an immediate of its width. -/
theorem opcodeForm_ok {T : OpTable} {ctx : Ctx} {d : Option Int} {n : Nat} {w : List Byte} {r : DecodedInstruction}
    (h : opcodeForm T ctx d n w = .ok r) :
    ∃ op e imm rest, w.drop n = op :: (ImmBytes.bytes imm ++ rest) ∧ T.lookup ctx.table op = some e
      ∧ e.imm.val = imm.width := by
  obtain ⟨op, hop, h⟩ := bind_eq_ok_iff.1 h
  obtain ⟨e, he, h⟩ := bind_eq_ok_iff.1 h
  obtain ⟨v, hv, _⟩ := bind_eq_ok_iff.1 h
  obtain ⟨imm, rest, hdrop, hk, _⟩ := immAt_eq_ok hv
  refine ⟨op, e, imm, rest, ?_, entryFor_eq_ok_iff.1 he, hk⟩
  rw [getElem?_drop_cons (byteAt_eq_ok_iff.1 hop), hdrop]

/-- F-IDXD: the opcode of an entry, a displacement byte, and an immediate of the entry's width. -/
theorem formIdxD_ok {T : OpTable} {p : IdxPrefix} {w : List Byte} {r : DecodedInstruction}
    (h : formIdxD T p w = .ok r) :
    ∃ op d e imm rest, w.drop 1 = op :: d :: (ImmBytes.bytes imm ++ rest) ∧ T.lookup .idx op = some e
      ∧ e.imm.val = imm.width := by
  obtain ⟨op, hop, h⟩ := bind_eq_ok_iff.1 h
  obtain ⟨e, he, h⟩ := bind_eq_ok_iff.1 h
  obtain ⟨x, hx, h⟩ := bind_eq_ok_iff.1 h
  obtain ⟨v, hv, _⟩ := bind_eq_ok_iff.1 h
  obtain ⟨d, hd, _⟩ := dispAt_eq_ok_iff.1 hx
  obtain ⟨imm, rest, hdrop, hk, _⟩ := immAt_eq_ok hv
  refine ⟨op, d, e, imm, rest, ?_, p.table_ctx ▸ entryFor_eq_ok_iff.1 he, hk⟩
  rw [getElem?_drop_cons (byteAt_eq_ok_iff.1 hop), getElem?_drop_cons hd, hdrop]

/-- F-IDXCB: a displacement byte and the opcode of an entry. -/
theorem formIdxCb_ok {T : OpTable} {p : IdxPrefix} {w : List Byte} {r : DecodedInstruction}
    (h : formIdxCb T p w = .ok r) :
    ∃ d op e rest, w.drop 2 = d :: op :: rest ∧ T.lookup .idxcb op = some e := by
  obtain ⟨x, hx, h⟩ := bind_eq_ok_iff.1 h
  obtain ⟨op, hop, h⟩ := bind_eq_ok_iff.1 h
  obtain ⟨e, he, _⟩ := bind_eq_ok_iff.1 h
  obtain ⟨d, hd, _⟩ := dispAt_eq_ok_iff.1 hx
  refine ⟨d, op, e, w.drop 4, ?_, p.table_ctxCB ▸ entryFor_eq_ok_iff.1 he⟩
  rw [getElem?_drop_cons hd, getElem?_drop_cons (byteAt_eq_ok_iff.1 hop)]

/-! ### The instruction a window begins with -/

/-- The window begins with the bytes of a well-formed instruction other than those of R180. -/
def Spells (T : OpTable) (w : List Byte) : Prop :=
  ∃ i rest, Instr.wf T i = true ∧ (∀ p q, i ≠ .unknownPrefix p q) ∧ w = encode i ++ rest

/-- F-MAIN: `00` is NOP, another opcode byte its own instruction. -/
theorem spells_main {T : OpTable} (hT : T.wf = true) {b : Byte} {w : List Byte} {r : DecodedInstruction}
    (hb : isPrefixByte b = false) (h : formMain T (b :: w) = .ok r) : Spells T (b :: w) := by
  obtain ⟨op, e, imm, rest, hw, he, hk⟩ := opcodeForm_ok h
  rw [List.drop_zero, List.cons.injEq] at hw
  obtain ⟨rfl, rfl⟩ := hw
  by_cases h0 : b = 0x00
  · exact ⟨.nop, imm.bytes ++ rest, rfl, by simp, by rw [h0]; rfl⟩
  · refine ⟨.main b imm, rest, ?_, by simp, rfl⟩
    have hfit : T.fits .main b false imm = true :=
      OpTable.fits_iff.2 ⟨e, he, T.idxrel_eq_false hT (by simp [Ctx.table]) he, hk⟩
    simpa [Instr.wf, hb, hfit] using h0

/-- F-CB: `CB 00` is an instruction of its own. -/
theorem spells_cb {T : OpTable} (hT : T.wf = true) {w : List Byte} {r : DecodedInstruction}
    (h : formCb T (0xCB :: w) = .ok r) : Spells T (0xCB :: w) := by
  obtain ⟨op, e, imm, rest, hw, he, hk⟩ := opcodeForm_ok h
  obtain rfl : w = op :: (imm.bytes ++ rest) := hw
  by_cases h0 : op = 0x00
  · exact ⟨.cb00, imm.bytes ++ rest, rfl, by simp, by rw [h0]; rfl⟩
  · refine ⟨.cb op imm, rest, ?_, by simp, rfl⟩
    have hfit : T.fits .cb op false imm = true :=
      OpTable.fits_iff.2 ⟨e, he, T.idxrel_eq_false hT (by simp [Ctx.table]) he, hk⟩
    simpa [Instr.wf, hfit] using h0

/-- F-ED. -/
theorem spells_ed {T : OpTable} (hT : T.wf = true) {w : List Byte} {r : DecodedInstruction}
    (h : formEd T (0xED :: w) = .ok r) : Spells T (0xED :: w) := by
  obtain ⟨op, e, imm, rest, hw, he, hk⟩ := opcodeForm_ok h
  obtain rfl : w = op :: (imm.bytes ++ rest) := hw
  have hfit : T.fits .ed op false imm = true :=
    OpTable.fits_iff.2 ⟨e, he, T.idxrel_eq_false hT (by simp [Ctx.table]) he, hk⟩
  exact ⟨.ed op imm, rest, hfit, by simp, rfl⟩

/-- F-IDX: `DD 09` is an instruction of its own. -/
theorem spells_idx {T : OpTable} (p : IdxPrefix) {b : Byte} {w : List Byte} {r : DecodedInstruction}
    {e : Entry} (hb : isPrefixByte b = false) (he : T.lookup .idx b = some e) (hx : e.idxrel = false)
    (h : formIdx T p (p.byte :: b :: w) = .ok r) : Spells T (p.byte :: b :: w) := by
  obtain ⟨op, e', imm, rest, hw, he', hk⟩ := opcodeForm_ok h
  rw [List.drop_succ_cons, List.drop_zero, List.cons.injEq] at hw
  obtain ⟨rfl, rfl⟩ := hw
  obtain rfl : e = e' := Option.some.inj (he.symm.trans (p.table_ctx ▸ he'))
  have hfit : T.fits .idx b false imm = true := OpTable.fits_iff.2 ⟨e, he, hx, hk⟩
  cases p with
  | dd =>
    by_cases h9 : b = 0x09
    · exact ⟨.dd09, imm.bytes ++ rest, rfl, by simp, by rw [h9]; rfl⟩
    · refine ⟨.dd b imm, rest, ?_, by simp, rfl⟩
      simpa [Instr.wf, hb, hfit] using h9
  | fd => exact ⟨.fd b imm, rest, by simp [Instr.wf, hb, hfit], by simp, rfl⟩

/-- F-IDXD. -/
theorem spells_idxD {T : OpTable} (p : IdxPrefix) {b : Byte} {w : List Byte} {r : DecodedInstruction}
    {e : Entry} (hb : isPrefixByte b = false) (he : T.lookup .idx b = some e) (hx : e.idxrel = true)
    (h : formIdxD T p (p.byte :: b :: w) = .ok r) : Spells T (p.byte :: b :: w) := by
  obtain ⟨op, d, e', imm, rest, hw, he', hk⟩ := formIdxD_ok h
  rw [List.drop_succ_cons, List.drop_zero, List.cons.injEq] at hw
  obtain ⟨rfl, rfl⟩ := hw
  obtain rfl : e = e' := Option.some.inj (he.symm.trans he')
  have hfit : T.fits .idx b true imm = true := OpTable.fits_iff.2 ⟨e, he, hx, hk⟩
  cases p with
  | dd => exact ⟨.ddIdx b d imm, rest, by simp [Instr.wf, hb, hfit], by simp, rfl⟩
  | fd => exact ⟨.fdIdx b d imm, rest, by simp [Instr.wf, hb, hfit], by simp, rfl⟩

/-- F-IDXCB. -/
theorem spells_idxCb {T : OpTable} (hT : T.wf = true) (p : IdxPrefix) {w : List Byte} {r : DecodedInstruction}
    (h : formIdxCb T p (p.byte :: 0xCB :: w) = .ok r) : Spells T (p.byte :: 0xCB :: w) := by
  obtain ⟨d, op, e, rest, hw, he⟩ := formIdxCb_ok h
  obtain rfl : w = d :: op :: rest := hw
  have hfit : T.fits .idxcb op false .none = true :=
    OpTable.fits_iff.2 ⟨e, he, T.idxrel_eq_false hT (by simp) he, by rw [T.imm_eq_zero_of_idxcb hT he]; rfl⟩
  cases p with
  | dd => exact ⟨.ddcb d op, rest, hfit, by simp, rfl⟩
  | fd => exact ⟨.fdcb d op, rest, hfit, by simp, rfl⟩

/-- After `DD` or `FD` a window that decodes spells one of the index forms. -/
theorem spells_prefix {T : OpTable} (hT : T.wf = true) (p : IdxPrefix) {w : List Byte} {r : DecodedInstruction}
    (h : formDecode T (p.byte :: w) = .ok r) : Spells T (p.byte :: w) := by
  cases w with
  | nil => cases p <;> cases h
  | cons b w =>
    rw [formDecode_prefix] at h
    split at h
    · rename_i hcb; subst hcb
      exact spells_idxCb hT p h
    split at h
    · cases h
    · rename_i hcb hbad
      have hb := isPrefixByte_eq_false hcb (by simpa using hbad)
      obtain ⟨e, hentry, h⟩ := bind_eq_ok_iff.1 h
      have he : T.lookup .idx b = some e := p.table_ctx ▸ entryFor_eq_ok_iff.1 hentry
      cases hx : e.idxrel with
      | true => exact spells_idxD p hb he hx (by simpa [hx] using h)
      | false => exact spells_idx p hb he hx (by simpa [hx] using h)

/-- A window that decodes to a record begins with a well-formed instruction's bytes. -/
theorem spells_of_decodeWindow {T : OpTable} (hT : T.wf = true) {w : List Byte} {r : DecodedInstruction}
    (h : decodeWindow T w = .ok r) : Spells T w := by
  rw [decodeWindow_eq_formDecode hT] at h
  cases w with
  | nil => cases h
  | cons b w =>
    by_cases hcb : b = 0xCB
    · subst hcb
      exact spells_cb hT (formDecode_cb T w ▸ h)
    by_cases hed : b = 0xED
    · subst hed
      exact spells_ed hT (formDecode_ed T w ▸ h)
    by_cases hdd : b = 0xDD
    · subst hdd
      exact spells_prefix hT .dd h
    by_cases hfd : b = 0xFD
    · subst hfd
      exact spells_prefix hT .fd h
    · have hb : isPrefixByte b = false := by simp_all [isPrefixByte]
      exact spells_main hT hb (formDecode_main T hb w ▸ h)

/-! ### The decode of a window -/

/-- A window that decodes to a record spells the instruction the record is of, and that is the instruction's record. -/
theorem isRecordOf_of_decodeWindow {T : OpTable} (hT : T.wf = true) {w : List Byte} {r : DecodedInstruction}
    (h : decodeWindow T w = .ok r) : IsRecordOf T (Instr.ofRecord r) r := by
  obtain ⟨i, rest, hi, hlegal, rfl⟩ := spells_of_decodeWindow hT h
  obtain ⟨r', hr⟩ := exists_isRecordOf hT hi hlegal
  rw [decodeWindow_eq_formDecode hT, hr.window] at h
  cases h
  rwa [hr.instr]

/-- A well-formed instruction's bytes decode to what its meaning answers, whatever follows them. -/
theorem decodeWindow_encode_append {T : OpTable} (hT : T.wf = true) {i : Instr} (hi : i.wf T = true)
    (rest : List Byte) : decodeWindow T (encode i ++ rest) = responseOf T i := by
  rw [decodeWindow_eq_formDecode hT]
  by_cases hlegal : ∀ p q, i ≠ .unknownPrefix p q
  · obtain ⟨r, hr⟩ := exists_isRecordOf hT hi hlegal
    rw [hr.window, hr.response]
  · push Not at hlegal
    obtain ⟨p, q, rfl⟩ := hlegal
    exact formDecode_badPrefix T p hi rest

/-- The Consumer's response to a window is the window's decode: running the meaning of the instruction it spells decodes
it again. -/
theorem windowResponse_eq_decodeWindow {T : OpTable} (hT : T.wf = true) (w : List Byte) :
    windowResponse T w = decodeWindow T w := by
  unfold windowResponse decode
  cases h : decodeWindow T w with
  | ok r => exact (isRecordOf_of_decodeWindow hT h).response
  | error e => cases e <;> rfl

end Sys2Proof.Machine
end

section
/-! PROOFS. The state (10_state.md sections 2 to 4): the decode transaction, the DECODE port, the Consumer's step, and
the records the block reports. -/

namespace Sys2Proof.Machine

/-! ### The decode transaction -/

/-- The decode transaction answers the window's decode and empties the stage register, whatever it held (R25). -/
theorem decodeRequest_eq (s : State) (w : List Byte) :
    s.decodeRequest w = (decodeWindow s.params.optable w, s.setStage none) := by
  unfold State.decodeRequest
  rw [stageSteps_eq]
  rfl

theorem serveDecode_eq {s : State} (hT : s.params.optable.wf = true) (w : List Byte) :
    serve (.decode w) s =
      .next ((s.setStage none).respond (decodeResponse (decodeWindow s.params.optable w))) := by
  simp only [serve, serveDecode, hT, if_true, decodeRequest_eq]
  cases decodeWindow s.params.optable w <;> rfl

/-! ### The Consumer's step -/

theorem finishDecode_ok (s : State) (r : DecodedInstruction) : s.finishDecode (.ok r) = Claims.afterRecord s r := rfl

theorem finishDecode_error (s : State) (e : DecodeError) :
    s.finishDecode (.error e) = Claims.afterError s e := by
  unfold State.finishDecode State.applyPolicy Claims.afterError
  cases hp : s.consumer.policy <;>
    simp [hp, State.raise, State.respond, State.setStage, State.setConsumer, State.advance]

@[simp] theorem finishDecode_code (s : State) (resp) : (s.finishDecode resp).consumer.code = s.consumer.code := by
  cases resp <;> simp [State.finishDecode]

@[simp] theorem finishDecode_policy (s : State) (resp) :
    (s.finishDecode resp).consumer.policy = s.consumer.policy := by
  cases resp <;> simp [State.finishDecode]

theorem consumerDecode_of_wf {s : State} (hT : s.params.optable.wf = true)
    (resp : Except DecodeError DecodedInstruction) : s.consumerDecode resp = .next (s.finishDecode resp) :=
  (consumerDecode_next_iff _ _ _).2 ⟨hT, rfl⟩

theorem fetchWindow_of_codeBytes {s : State} {code : List Byte} (hc : s.codeBytes = some code) :
    s.fetchWindow = some (windowAt code s.consumer.pc) := by
  rw [State.fetchWindow, hc]; rfl

/-- Under an admissible OPTABLE the Consumer's step is the end of a fetch-decode step with its window's decode (R37). -/
theorem consumerStep_eq {s : State} {w : List Byte} (hw : s.fetchWindow = some w)
    (hT : s.params.optable.wf = true) :
    consumerStep s = .next (s.finishDecode (decodeWindow s.params.optable w)) := by
  rw [consumerStep_of_fetchWindow hw, windowResponse_eq_decodeWindow hT, consumerDecode_of_wf hT]

/-- Where the window spells an instruction, the Consumer's step is its meaning. -/
theorem consumerStep_of_decode {s : State} {w : List Byte} {i : Instr} (hw : s.fetchWindow = some w)
    (hi : decode s.params.optable w = .ok i) : consumerStep s = exec i s := by
  simp [consumerStep, hw, hi]

/-! ### The responses of a step -/

/-- The responses of `t` are those of `s`, with at most one behind them, which is the decode of a window under an
admissible OPTABLE wherever it is a record. -/
def RespondsAtMostADecode (s t : State) : Prop :=
  t.out = s.out
    ∨ (∃ a, (∀ r, a ≠ .decoded r) ∧ t.out = s.out ++ [a])
    ∨ (∃ w, s.params.optable.wf = true ∧ t.out = s.out ++ [decodeResponse (decodeWindow s.params.optable w)])

theorem step_responds {s t : State} (h : step s = .next t) : RespondsAtMostADecode s t := by
  rcases step_next h with ⟨r, rest, hp, hserve⟩ | ⟨_, _, hcons⟩ | ⟨_, _, rfl⟩
  · rcases serve_next hserve with
      ⟨_, _, _, rfl⟩ | ⟨_, _, _, _, _, _, rfl⟩ | ⟨w, _, hT, rfl⟩ | ⟨_, _, _, _, rfl⟩ | ⟨a, ha, rfl⟩
    · exact .inr (.inl ⟨.loaded, by simp, rfl⟩)
    · exact .inr (.inl ⟨.constructed _, by simp, rfl⟩)
    · rw [decodeRequest_eq]
      exact .inr (.inr ⟨w, hT, rfl⟩)
    · exact .inl rfl
    · exact .inr (.inl ⟨a, ha, rfl⟩)
  · obtain ⟨w, _, hw, hT, _⟩ := consumerStep_next hcons
    rw [consumerStep_eq hw hT] at hcons
    cases hcons
    exact .inr (.inr ⟨w, hT, finishDecode_out s _⟩)
  · exact .inl rfl

/-- The record a decode answers with is sound. -/
theorem sound_of_decodeResponse {T : OpTable} (hT : T.wf = true) {w : List Byte} {r : DecodedInstruction}
    (h : decodeResponse (decodeWindow T w) = .decoded r) : DecodedInstruction.Sound r := by
  cases hw : decodeWindow T w with
  | error e => rw [hw] at h; cases h
  | ok r' =>
    rw [hw] at h; cases h
    exact (isRecordOf_of_decodeWindow hT hw).sound

end Sys2Proof.Machine

namespace Sys2Proof.BlockState

open Sys2Proof.Machine Sys2Proof.Claims

/-- Settles O47: the one response of a step that can be a record is the decode of a window, and a window that decodes
gives the record of a well-formed instruction. -/
theorem reportedRecordsAreSound : Obligations.ReportedRecordsAreSound := by
  unfold Obligations.ReportedRecordsAreSound
  intro s t hs h r hr
  rcases step_responds h with ho | ⟨a, ha, ho⟩ | ⟨w, hT, ho⟩
  · exact hs r (ho ▸ hr)
  · rw [ho, List.mem_append, List.mem_singleton] at hr
    exact hr.elim (hs r) fun hra => absurd hra.symm (ha r)
  · rw [ho, List.mem_append, List.mem_singleton] at hr
    exact hr.elim (hs r) fun hra => sound_of_decodeResponse hT hra.symm

/-- Settles O26: every meaning is the end of a fetch-decode step, whose frame the laws of the operations give. -/
theorem instructionFrame : Obligations.InstructionFrame := by
  unfold Obligations.InstructionFrame
  intro i s t h
  obtain ⟨_, rfl⟩ := (exec_next_iff i s t).1 h
  refine ⟨finishDecode_params s _, finishDecode_rom s _, finishDecode_hdr s _, finishDecode_st s _, ?_,
    finishDecode_pending s _, finishDecode_code s _, finishDecode_policy s _, ?_⟩
  · intro a
    simp [State.romByte]
  · rw [finishDecode_out]
    cases responseOf s.params.optable i with
    | ok r => exact .inl ⟨r, rfl⟩
    | error e => exact .inr ⟨e, rfl⟩

/-- Settles O29: the Consumer's response is its window's decode, and how a step ends is a function of the response. -/
theorem consumerStepDecodesItsWindow : Obligations.ConsumerStepDecodesItsWindow := by
  unfold Obligations.ConsumerStepDecodesItsWindow
  intro s code hp hr hc hT
  rw [step_of_running hp hr, consumerStep_eq (fetchWindow_of_codeBytes hc) hT, windowAt, Config.windowMax]
  cases decodeWindow s.params.optable ((code.drop s.consumer.pc).take 4) with
  | ok r => exact congrArg _ (finishDecode_ok s r)
  | error e => exact congrArg _ (finishDecode_error s e)

/-- Settles O30: four bytes hold every instruction, so the window is the instruction's bytes with some of the rest behind
them, which decodes to the response of its meaning; the record's length is that of the bytes. -/
theorem encodedInstructionRunsInPlace : Obligations.EncodedInstructionRunsInPlace := by
  unfold Obligations.EncodedInstructionRunsInPlace
  intro s code rest i hp hr hc hT hi hdrop
  have hwindow : windowAt code s.consumer.pc = encode i ++ rest.take (4 - (encode i).length) := by
    rw [windowAt, hdrop, Config.windowMax, List.take_append, List.take_of_length_le (encode_length hT hi).2]
  have hstep : step s = .next (s.finishDecode (responseOf s.params.optable i)) := by
    rw [step_of_running hp hr, consumerStep_eq (fetchWindow_of_codeBytes hc) hT, hwindow,
      decodeWindow_encode_append hT hi]
  refine ⟨by rw [hstep, exec_eq, consumerDecode_of_wf hT], fun hlegal => ?_⟩
  obtain ⟨r, hrec⟩ := exists_isRecordOf hT hi hlegal
  have hpc : (s.finishDecode (responseOf s.params.optable i)).consumer.pc = s.consumer.pc + (encode i).length := by
    rw [hrec.response, ← hrec.length]; rfl
  refine ⟨_, hstep, hpc, ?_⟩
  rw [hpc, ← List.drop_drop, hdrop, List.drop_left]

/-- Settles O31, by what the decode transaction answers. -/
theorem decodePortAnswersTheWindow : Obligations.DecodePortAnswersTheWindow := by
  unfold Obligations.DecodePortAnswersTheWindow
  intro s w rest hp hT
  rw [step_of_request hp, serveDecode_eq (s := s.setPending rest) hT]
  rfl

/-- Settles O6, by the run of the stage register: it is set to `Prefix` first, so what it held does not matter. -/
theorem stageRegisterIsPerRequest : Obligations.StageRegisterIsPerRequest := by
  unfold Obligations.StageRegisterIsPerRequest
  exact decodeRequest_eq

/-- Settles O28: the window is at most four bytes of the code at the cursor, as the Consumer slices it. -/
theorem stepRunsTheDecodedInstruction : Obligations.StepRunsTheDecodedInstruction := by
  unfold Obligations.StepRunsTheDecodedInstruction
  intro s code i hp hr hc hi
  rw [step_of_running hp hr]
  exact consumerStep_of_decode (fetchWindow_of_codeBytes hc) hi

end Sys2Proof.BlockState
end

section
/-! PROOFS. The memory (20_memory.md section 5): decodes share no state, so their order does not matter. -/

namespace Sys2Proof.Machine

/-- A step that serves a DECODE under an admissible OPTABLE: it takes the request, empties the stage register and answers
the window's decode (R35, R160). -/
theorem step_of_decode {s : State} {w : List Byte} {rest : List Request} (hT : s.params.optable.wf = true)
    (hp : s.pending = .decode w :: rest) :
    step s = .next (((s.setPending rest).setStage none).respond
      (decodeResponse (decodeWindow s.params.optable w))) := by
  rw [step_of_request hp, serveDecode_eq (s := s.setPending rest) hT, State.setPending_params]

/-- The state after two DECODE requests: each answer is a function of the OPTABLE and its own window, and of what is left
behind only the responses tell which was served first. -/
theorem steps_of_two_decodes {s : State} (hT : s.params.optable.wf = true) (w v : List Byte) :
    ∃ s1, step (s.setPending [.decode w, .decode v]) = .next s1
      ∧ step s1 = .next { s with
          st := none
          pending := []
          out := s.out ++ [decodeResponse (decodeWindow s.params.optable w),
            decodeResponse (decodeWindow s.params.optable v)] } := by
  have hfirst := step_of_decode (s := s.setPending [.decode w, .decode v]) hT rfl
  refine ⟨_, hfirst, (step_of_decode (w := v) (rest := []) (by simpa using hT) (by simp)).trans ?_⟩
  simp [State.respond, State.setPending, State.setStage]

end Sys2Proof.Machine

namespace Sys2Proof.BlockState

open Sys2Proof.Machine

/-- Settles O33: the two orders end in the same state but for the responses, which are the same two swapped. -/
theorem decodeRequestsAreIndependent : Obligations.DecodeRequestsAreIndependent := by
  unfold Obligations.DecodeRequestsAreIndependent
  intro s w v hT
  obtain ⟨s1, hw, hwv⟩ := steps_of_two_decodes hT w v
  obtain ⟨t1, hv, hvw⟩ := steps_of_two_decodes hT v w
  exact ⟨s1, _, t1, _, _, _, hw, hwv, hv, hvw, rfl, rfl, rfl⟩

end Sys2Proof.BlockState
end

section
/-! PROOFS. The encoding (30_encoding.md sections 1 and 2): decode and encode invert each other, and a record is as long
as its fields. -/

namespace Sys2Proof

/-! ### Reads that fail

No read of the window and no lookup of an entry fails with `UnknownPrefix`: only the stage after `DD` or `FD` does. -/

theorem byteAt_ne_unknownPrefix (w : List Byte) (i : Nat) (q : Byte) : byteAt w i ≠ .error (.unknownPrefix q) := by
  rcases byteAt_cases w i with ⟨b, _, hb⟩ | ⟨_, hb⟩ <;> simp [hb]

theorem dispAt_ne_unknownPrefix (w : List Byte) (i : Nat) (q : Byte) : dispAt w i ≠ .error (.unknownPrefix q) := by
  by_cases hlen : i < w.length
  · simp [dispAt_ok hlen]
  · simp [dispAt_short (Nat.le_of_not_lt hlen)]

theorem immAt_ne_unknownPrefix (w : List Byte) (pos : Nat) (k : Fin 3) (q : Byte) :
    immAt w pos k ≠ .error (.unknownPrefix q) := by
  by_cases hlen : pos + k.val ≤ w.length
  · simp [immAt_ok hlen]
  · simp [immAt_short (Nat.lt_of_not_le hlen)]

theorem entryFor_ne_unknownPrefix (T : OpTable) (ctx : Ctx) (b q : Byte) :
    entryFor T ctx b ≠ .error (.unknownPrefix q) := by
  unfold entryFor
  cases T.lookup ctx.table b <;> simp

/-! ### The illegal byte after `DD` or `FD` -/

/-- The window begins with `DD` or `FD` and then `q`, which may not follow it (R75, R180). -/
def BeginsWithBadPrefix (w : List Byte) (q : Byte) : Prop :=
  ∃ (p : IdxPrefix) (rest : List Byte), w = p.byte :: q :: rest ∧ isBadSecondPrefix q = true

/-- What a stage reached from the start says of the window's first two bytes: `Prefix2` was entered by byte 0, and
`UnknownPrefix` names an illegal byte 1. -/
def Stage.PrefixesRead (w : List Byte) : Stage → Prop
  | .prefix2 p => w[0]? = some p.byte
  | .failed (.unknownPrefix q) => BeginsWithBadPrefix w q
  | _ => True

/-- A read that cannot fail with `UnknownPrefix` keeps what is known of those bytes if its continuation does. -/
theorem Stage.prefixesRead_orFail {α : Type} {w : List Byte} {x : Except DecodeError α} {k : α → Stage}
    (hx : ∀ q, x ≠ .error (.unknownPrefix q)) (hk : ∀ a, x = .ok a → (k a).PrefixesRead w) :
    (Stage.orFail x k).PrefixesRead w := by
  cases x with
  | ok a => exact hk a rfl
  | error e =>
    cases e with
    | unknownPrefix q => exact absurd rfl (hx q)
    | _ => trivial

/-- Every transition keeps what is known of those bytes (R163, R164). -/
theorem Stage.prefixesRead_next (T : OpTable) {w : List Byte} {st : Stage} (h : st.PrefixesRead w) :
    (st.next T w).PrefixesRead w := by
  cases st with
  | start =>
    refine prefixesRead_orFail (byteAt_ne_unknownPrefix w 0) fun b0 hb0 => ?_
    have hw : w[0]? = some b0 := byteAt_eq_ok_iff.1 hb0
    split_ifs with _ _ hdd hfd
    · trivial
    · trivial
    · rwa [hdd] at hw
    · rwa [hfd] at hw
    · trivial
  | prefix2 p =>
    refine prefixesRead_orFail (byteAt_ne_unknownPrefix w 1) fun b1 hb1 => ?_
    split_ifs with _ hbad
    · trivial
    · refine ⟨p, w.drop 2, ?_, hbad⟩
      rw [← Machine.getElem?_drop_cons (byteAt_eq_ok_iff.1 hb1), ← Machine.getElem?_drop_cons h, List.drop_zero]
    · trivial
  | opcode ctx pos d =>
    refine prefixesRead_orFail (byteAt_ne_unknownPrefix w pos) fun ob _ => ?_
    refine prefixesRead_orFail (entryFor_ne_unknownPrefix T ctx ob) fun e _ => ?_
    split_ifs <;> trivial
  | disp ctx pos op =>
    refine prefixesRead_orFail (dispAt_ne_unknownPrefix w pos) fun d _ => ?_
    cases op <;> trivial
  | imm ctx pos ob e d => exact prefixesRead_orFail (immAt_ne_unknownPrefix w pos e.imm) fun _ _ => trivial
  | done r => trivial
  | failed e => exact h

theorem Stage.prefixesRead_run (T : OpTable) {w : List Byte} (k : Nat) {st : Stage} (h : st.PrefixesRead w) :
    (Stage.run T w k st).PrefixesRead w := by
  induction k generalizing st with
  | zero => exact h
  | succ k ih => exact ih (prefixesRead_next T h)

/-- A stage answers `UnknownPrefix` only where it has failed with it. -/
theorem Stage.eq_failed_of_response {w : List Byte} {st : Stage} {q : Byte}
    (h : st.response w = .error (.unknownPrefix q)) : st = .failed (.unknownPrefix q) := by
  cases st with
  | failed e => cases h; rfl
  | _ => cases h

/-- A window whose decode is `UnknownPrefix`, under any OPTABLE, begins with the two bytes of R180. -/
theorem beginsWithBadPrefix_of_decodeWindow {T : OpTable} {w : List Byte} {q : Byte}
    (h : decodeWindow T w = .error (.unknownPrefix q)) : BeginsWithBadPrefix w q := by
  have hrun : (Stage.run T w Stage.maxTransitions .start).PrefixesRead w := Stage.prefixesRead_run T _ trivial
  rwa [Stage.eq_failed_of_response h] at hrun

/-! ### The instruction a window spells -/

theorem decode_of_record {T : OpTable} {w : List Byte} {r : DecodedInstruction} (h : decodeWindow T w = .ok r) :
    decode T w = .ok (Instr.ofRecord r) := by
  simp [decode, h]

theorem decode_of_badPrefix {T : OpTable} (p : IdxPrefix) {q : Byte} {rest : List Byte}
    (h : decodeWindow T (p.byte :: q :: rest) = .error (.unknownPrefix q)) :
    decode T (p.byte :: q :: rest) = .ok (.unknownPrefix p q) := by
  cases p <;> simp_all [decode, IdxPrefix.byte]

/-- A window that spells an instruction decodes to the instruction's record, or is one of R180. -/
theorem decode_cases {T : OpTable} {w : List Byte} {i : Instr} (h : decode T w = .ok i) :
    (∃ r, decodeWindow T w = .ok r ∧ i = Instr.ofRecord r)
      ∨ (∃ (p : IdxPrefix) (q : Byte) (rest : List Byte),
          w = p.byte :: q :: rest ∧ isBadSecondPrefix q = true ∧ i = .unknownPrefix p q) := by
  cases hw : decodeWindow T w with
  | ok r =>
    rw [decode_of_record hw] at h
    cases h
    exact .inl ⟨r, rfl, rfl⟩
  | error e =>
    cases e with
    | unknownPrefix q =>
      obtain ⟨p, rest, rfl, hbad⟩ := beginsWithBadPrefix_of_decodeWindow hw
      rw [decode_of_badPrefix p hw] at h
      cases h
      exact .inr ⟨p, q, rest, rfl, hbad, rfl⟩
    | _ => simp [decode, hw] at h

/-- A well-formed instruction's bytes spell it, whatever follows them (R71). -/
theorem decode_encode_append {T : OpTable} (hT : T.wf = true) {i : Instr} (hi : i.wf T = true) (rest : List Byte) :
    decode T (encode i ++ rest) = .ok i := by
  have hw := Machine.decodeWindow_encode_append hT hi rest
  by_cases hlegal : ∀ p q, i ≠ .unknownPrefix p q
  · obtain ⟨r, hr⟩ := Machine.exists_isRecordOf hT hi hlegal
    rw [decode_of_record (hw.trans hr.response), hr.instr]
  · push Not at hlegal
    obtain ⟨p, q, rfl⟩ := hlegal
    exact decode_of_badPrefix p hw

/-- A window that decodes to a record begins with the bytes of the record's instruction, which is well formed. -/
theorem ofRecord_wf_and_encode {T : OpTable} (hT : T.wf = true) {w : List Byte} {r : DecodedInstruction}
    (h : decodeWindow T w = .ok r) :
    (Instr.ofRecord r).wf T = true ∧ ∃ rest, w = encode (Instr.ofRecord r) ++ rest := by
  obtain ⟨i, rest, hi, _, rfl⟩ := Machine.spells_of_decodeWindow hT h
  obtain rfl : i = Instr.ofRecord r :=
    Except.ok.inj ((decode_encode_append hT hi rest).symm.trans (decode_of_record h))
  exact ⟨hi, rest, rfl⟩

end Sys2Proof

namespace Sys2Proof.Encoding

/-- Settles O1: a legal instruction has a record, which its window decodes to and which names it; the window of an
instruction of R180 is answered with `UnknownPrefix`, which spells it. -/
theorem decodeInvertsEncode : Obligations.DecodeInvertsEncode := by
  unfold Obligations.DecodeInvertsEncode
  intro T i rest hT hi
  exact decode_encode_append hT hi rest

/-- Settles O2, by the two ways to spell an instruction: a record's window begins with its instruction's bytes, and a
window answered with `UnknownPrefix` begins with the two bytes the stages have read. -/
theorem decodedWindowBeginsWithTheEncoding : Obligations.DecodedWindowBeginsWithTheEncoding := by
  unfold Obligations.DecodedWindowBeginsWithTheEncoding
  intro T w i hT h
  rcases decode_cases h with ⟨r, hr, rfl⟩ | ⟨p, q, rest, rfl, hbad, rfl⟩
  · exact ofRecord_wf_and_encode hT hr
  · exact ⟨hbad, rest, rfl⟩

/-- Settles O10: the record is its instruction's, so it is sound and as long as the bytes the window begins with. -/
theorem lengthIsTheSumOfTheFields : Obligations.LengthIsTheSumOfTheFields := by
  unfold Obligations.LengthIsTheSumOfTheFields
  intro T w r hT h
  have hrecord := Machine.isRecordOf_of_decodeWindow hT h
  obtain ⟨hmin, hmax, hsum, _⟩ := hrecord.sound
  obtain ⟨_, rest, hw⟩ := ofRecord_wf_and_encode hT h
  have hwindow : r.length ≤ w.length := by
    rw [hrecord.length, congrArg List.length hw, List.length_append]
    exact Nat.le_add_right _ _
  exact ⟨hsum, hmin, hmax, hwindow⟩

end Sys2Proof.Encoding
end

section
/-! PROOFS. The tables and operands of the encoding (30_encoding.md sections 2, 3 and 6): the check of OPTABLE, the
domain of COMPONENT_TABLE, the capacity codes, and the assembly of operands. -/

namespace Sys2Proof

/-! ### OPTABLE -/

/-- The check of one entry, rule by rule (R81, R82, R83). -/
theorem entryOk_some_iff {t : Table} {b : Byte} {e : Entry} :
    entryOk t b (some e) = true ↔
      (e.idxrel = true → t = .idx)
      ∧ (t = .idx → e.idxrel = true → e.imm.val ≤ 1)
      ∧ (t = .idxcb → e.imm.val = 0)
      ∧ (t = .main ∨ t = .idx → b ≠ 0xCB ∧ b ≠ 0xDD ∧ b ≠ 0xED ∧ b ≠ 0xFD) := by
  cases t <;> cases hx : e.idxrel <;> simp [entryOk, hx, isPrefixByte, and_assoc]

/-- A missing entry breaks no rule, so a check of an optional entry is one of the entry that is there. -/
theorem entryOk_iff {t : Table} {b : Byte} {x : Option Entry} :
    entryOk t b x = true ↔ ∀ e, x = some e → entryOk t b (some e) = true := by
  cases x <;> simp [entryOk]

/-! ### COMPONENT_TABLE -/

theorem ComponentTable.nodup_candidates : ComponentTable.candidates.Nodup := by decide

/-- The candidate a component table has no list for. -/
def ComponentTable.missingCode (C : ComponentTable) : Byte :=
  ComponentTable.candidates[C.missing.val]'C.missing.isLt

/-- The codes a component table has a list for: `0x03`, and the open candidates but the missing one (R93, R94). -/
def ComponentTable.domain (C : ComponentTable) : List Byte :=
  0x03 :: ComponentTable.candidates.erase C.missingCode

/-- A component table has a list for exactly the codes of its domain. -/
theorem ComponentTable.isSome_lookup_iff (C : ComponentTable) (b : Byte) :
    (C.lookup b).isSome = true ↔ b ∈ C.domain := by
  unfold ComponentTable.lookup ComponentTable.domain
  by_cases h3 : b = 0x03
  · simp [h3]
  rw [if_neg h3, List.mem_cons, or_iff_right h3, nodup_candidates.mem_erase_iff]
  cases hfind : ComponentTable.candidates.findIdx? (· == b) with
  | none =>
    have hb : b ∉ ComponentTable.candidates := by
      intro hmem
      simpa using List.findIdx?_eq_none_iff.1 hfind b hmem
    simp [hb]
  | some k =>
    obtain ⟨hlt, heq, _⟩ := List.findIdx?_eq_some_iff_getElem.1 hfind
    obtain rfl : ComponentTable.candidates[k] = b := by simpa using heq
    have hmissing : ComponentTable.candidates[k] = C.missingCode ↔ k = C.missing.val :=
      nodup_candidates.getElem_inj_iff
    have hlist : k < 33 := hlt
    rw [ne_eq, hmissing]
    by_cases hm : k = C.missing.val <;> simp [hm, hlist]

theorem ComponentTable.nodup_domain (C : ComponentTable) : C.domain.Nodup := by
  have h3 : (0x03 : Byte) ∉ ComponentTable.candidates := by decide
  exact List.nodup_cons.2 ⟨fun h => h3 (List.mem_of_mem_erase h), nodup_candidates.erase _⟩

theorem ComponentTable.length_domain (C : ComponentTable) : C.domain.length = 33 := by
  have hmem : C.missingCode ∈ ComponentTable.candidates := List.getElem_mem C.missing.isLt
  rw [ComponentTable.domain, List.length_cons, List.length_erase_of_mem hmem]
  rfl

/-- R93 (b): a code of the domain is `0x03` or one of the candidates. -/
theorem ComponentTable.mem_of_mem_domain {C : ComponentTable} {b : Byte} (h : b ∈ C.domain) :
    b ∈ 0x03 :: ComponentTable.candidates :=
  List.cons_subset_cons _ List.erase_subset h

/-- A byte that is neither `0x03` nor a candidate has no list, whichever candidate is missing. -/
theorem ComponentTable.lookup_eq_none {b : Byte} (C : ComponentTable) (h : b ∉ 0x03 :: ComponentTable.candidates) :
    C.lookup b = none := by
  rw [← Option.not_isSome_iff_eq_none, isSome_lookup_iff]
  exact fun hb => h (mem_of_mem_domain hb)

/-- The byte values counted by membership in a list without repetitions are as many as the list is long. -/
theorem length_filter_range_mem {L : List Byte} (hL : L.Nodup) {p : Nat → Bool}
    (hp : ∀ n, p n = true ↔ BitVec.ofNat 8 n ∈ L) : ((List.range 256).filter p).length = L.length := by
  have hperm : ((List.range 256).filter p).Perm (L.map BitVec.toNat) := by
    refine (List.perm_ext_iff_of_nodup (List.nodup_range.filter _)
      (hL.map fun _ _ => BitVec.eq_of_toNat_eq)).2 fun n => ?_
    rw [List.mem_filter, hp, List.mem_range, List.mem_map]
    constructor
    · rintro ⟨hn, hmem⟩
      exact ⟨_, hmem, by simpa using hn⟩
    · rintro ⟨b, hb, rfl⟩
      exact ⟨b.isLt, by simpa using hb⟩
  rw [hperm.length_eq, List.length_map]

/-! ### Capacity codes -/

/-- R90: a byte is the code of a ROM capacity exactly where it is that capacity's code byte. -/
theorem RomCapacity.ofCode_eq_some_iff {b : Byte} {c : RomCapacity} : RomCapacity.ofCode b = some c ↔ b = c.code := by
  constructor
  · intro h
    simp only [RomCapacity.ofCode, ite_eq_iff, Option.some.injEq, reduceCtorEq, and_false, or_false] at h
    cases c <;> simp_all [RomCapacity.code]
  · rintro rfl
    cases c <;> rfl

/-- R91: a byte is the code of a RAM capacity exactly where it is that capacity's code byte. -/
theorem RamCapacity.ofCode_eq_some_iff {b : Byte} {c : RamCapacity} : RamCapacity.ofCode b = some c ↔ b = c.code := by
  constructor
  · intro h
    simp only [RamCapacity.ofCode, ite_eq_iff, Option.some.injEq, reduceCtorEq, and_false, or_false] at h
    cases c <;> simp_all [RamCapacity.code]
  · rintro rfl
    cases c <;> rfl

/-- R90: a byte that is no ROM capacity code is none of the ten listed. -/
theorem RomCapacity.unlisted_of_ofCode_eq_none {b : Byte} (h : RomCapacity.ofCode b = none) :
    ¬ b.toNat ≤ 6 ∧ b.toNat ≠ 0x52 ∧ b.toNat ≠ 0x53 ∧ b.toNat ≠ 0x54 := by
  simp only [RomCapacity.ofCode, ite_eq_iff, reduceCtorEq, and_false, false_or, and_true] at h
  bv_omega

/-- R91: a byte that is no RAM capacity code is none of the five listed. -/
theorem RamCapacity.unlisted_of_ofCode_eq_none {b : Byte} (h : RamCapacity.ofCode b = none) : 5 ≤ b.toNat := by
  simp only [RamCapacity.ofCode, ite_eq_iff, reduceCtorEq, and_false, false_or, and_true] at h
  bv_omega

/-! ### Operands -/

/-- R76: the displacement is the two's complement value of its byte. -/
theorem sext8_eq_toInt (b : Byte) : sext8 b = b.toInt := by
  rw [BitVec.toInt_eq_toNat_cond, sext8]
  split <;> split <;> omega

/-- R12, R77: the value of a 2-byte immediate fits its 16 bits. -/
theorem toNat_u16le (lo hi : Byte) : (u16le lo hi).toNat = lo.toNat + 256 * hi.toNat := by
  have hlo := lo.isLt
  have hhi := hi.isLt
  rw [u16le, BitVec.toNat_ofNat, Nat.mod_eq_of_lt (by omega)]

end Sys2Proof

namespace Sys2Proof.Encoding

/-- Settles O48: the check of all tables is one of every entry in force, and that of an entry is the rules. -/
theorem optableCheckIsItsConstraints : Obligations.OptableCheckIsItsConstraints := by
  unfold Obligations.OptableCheckIsItsConstraints
  intro T
  rw [T.wf_iff]
  refine forall₂_congr fun t b => ?_
  rw [entryOk_iff]
  exact forall₂_congr fun e _ => entryOk_some_iff

/-- Settles O49, by the table's lookup at the three keys. -/
theorem fixedOptableEntries : Obligations.FixedOptableEntries := by
  unfold Obligations.FixedOptableEntries
  intro T
  exact ⟨T.lookup_nop, ⟨_, T.lookup_cb00, rfl⟩, ⟨_, T.lookup_idx09, rfl, rfl⟩⟩

/-- Settles O50: the domain is a list of 33 different codes, whichever candidate is missing from it. -/
theorem componentTableDomain : Obligations.ComponentTableDomain := by
  unfold Obligations.ComponentTableDomain
  intro C
  have hrange : ∀ b ∈ 0x03 :: ComponentTable.candidates, b.toNat ≤ 0x1F ∨ 0xFD ≤ b.toNat := by
    simp [ComponentTable.candidates]
  refine ⟨?_, fun b hb => ?_, C.lookup_eq_none (by decide), C.lookup_eq_none (by decide), rfl⟩
  · rw [← C.length_domain]
    exact length_filter_range_mem C.nodup_domain fun n => C.isSome_lookup_iff _
  · exact hrange b (ComponentTable.mem_of_mem_domain ((C.isSome_lookup_iff b).1 hb))

/-- Settles O52: a code is its capacity's code byte, and a byte that is no code is none of those listed. -/
theorem capacityCodesGiveTheListedSizes : Obligations.CapacityCodesGiveTheListedSizes := by
  unfold Obligations.CapacityCodesGiveTheListedSizes
  intro b
  constructor
  · cases h : RomCapacity.ofCode b with
    | some c =>
      obtain rfl := RomCapacity.ofCode_eq_some_iff.1 h
      cases c <;> rfl
    | none =>
      obtain ⟨hlow, h52, h53, h54⟩ := RomCapacity.unlisted_of_ofCode_eq_none h
      simp only [Option.map_none, hlow, h52, h53, h54, if_false]
  · cases h : RamCapacity.ofCode b with
    | some c =>
      obtain rfl := RamCapacity.ofCode_eq_some_iff.1 h
      cases c <;> rfl
    | none =>
      rw [Option.map_none, List.getElem?_eq_none (RamCapacity.unlisted_of_ofCode_eq_none h)]

/-- Settles O53: the displacement is the signed value of its byte, and a 2-byte immediate the little-endian one. -/
theorem operandAssembly : Obligations.OperandAssembly := by
  unfold Obligations.OperandAssembly
  refine ⟨fun b => ?_, rfl, fun b => rfl, fun lo hi => ⟨u16le lo hi, rfl, toNat_u16le lo hi⟩⟩
  obtain ⟨hmin, hmax⟩ := sext8_bounds b
  exact ⟨sext8_eq_toInt b, hmin, hmax, dispByte_sext8 b⟩

end Sys2Proof.Encoding
end

section
/-! PROOFS. Region extraction and conversions (40_region.md): a read returns its whole range or a bounds error, and a
conversion checks its slice's length before it reads a byte. -/

namespace Sys2Proof

/-- A region that violates `start ≤ end ≤ length` is a bounds error, whichever of the two bounds fails (R101). -/
theorem extract_error {r : Region} {buf : List Byte} (h : ¬ (r.start ≤ r.stop ∧ r.stop ≤ buf.length)) :
    extract r buf = .error (.regionOutOfBounds r.start r.stop buf.length) := by
  have hbad : r.stop < r.start ∨ buf.length < r.stop := by omega
  rw [extract, if_pos hbad]

/-- R12: the value of a big-endian pair fits its 16 bits. -/
theorem toNat_u16be (hi lo : Byte) : (u16be hi lo).toNat = 256 * hi.toNat + lo.toNat := by
  have hlo := lo.isLt
  have hhi := hi.isLt
  rw [u16be, BitVec.toNat_ofNat, Nat.mod_eq_of_lt (by omega)]

/-- R102: only a slice of one byte converts to a byte. -/
theorem toU8_error {s : List Byte} (h : s.length ≠ 1) : toU8 s = .error (.regionOutOfBounds 0 1 s.length) := by
  match s with
  | [] => rfl
  | [_] => exact absurd rfl h
  | _ :: _ :: _ => rfl

/-- R103: only a slice of two bytes converts to a word, whatever the byte order. -/
theorem toU16_error {s : List Byte} (h : s.length ≠ 2) :
    toU16le s = .error (.regionOutOfBounds 0 2 s.length) ∧ toU16be s = .error (.regionOutOfBounds 0 2 s.length) := by
  match s with
  | [] | [_] => exact ⟨rfl, rfl⟩
  | [_, _] => exact absurd rfl h
  | _ :: _ :: _ :: _ => exact ⟨rfl, rfl⟩

end Sys2Proof

namespace Sys2Proof.Extraction

/-- Settles O54: inside the buffer the slice is `take` of `drop`, and any other region is an error. -/
theorem extractReadsTheWholeRange : Obligations.ExtractReadsTheWholeRange := by
  unfold Obligations.ExtractReadsTheWholeRange
  intro r buf
  refine ⟨fun ⟨hle, hlen⟩ => ⟨_, extract_ok hle hlen, ?_, fun i hi => ?_⟩, extract_error⟩
  · rw [List.length_take, List.length_drop]
    omega
  · rw [List.getElem?_take_of_lt hi, List.getElem?_drop]

/-- Settles O55: a slice of the right length converts by its definition, the two byte orders have their values, and any
other length is an error. -/
theorem conversionsValidateTheLength : Obligations.ConversionsValidateTheLength := by
  unfold Obligations.ConversionsValidateTheLength
  refine ⟨fun _ => rfl, fun _ => toU8_error, fun a b => ⟨?_, ?_⟩, fun _ => toU16_error, fun _ _ h => if_pos h,
    fun _ _ h => if_neg h⟩
  · exact ⟨u16le a b, rfl, toNat_u16le a b⟩
  · exact ⟨u16be a b, rfl, toNat_u16be a b⟩

end Sys2Proof.Extraction
end

section
/-! PROOFS. The title's text (41_header.md section 2): one turn of the decoding, the bounds of the text's length, and
the sequences of 1 to 4 bytes that a character is encoded as. -/

namespace Sys2Proof

/-! ### One turn of the decoding (R122) -/

theorem utf8Cont_length_le (need lo hi : Nat) (bs : List Byte) :
    (utf8Cont need lo hi bs).length ≤ need ∧ (utf8Cont need lo hi bs).length ≤ bs.length := by
  induction need generalizing lo hi bs with
  | zero => simp [utf8Cont]
  | succ need ih =>
    cases bs with
    | nil => simp [utf8Cont]
    | cons b bs =>
      unfold utf8Cont
      split
      · simpa using ih 0x80 0xBF bs
      · simp

/-- R122: a byte that begins a sequence lies within `C2` to `F4`, and announces at most three more. -/
theorem utf8Lead_eq_some {b : Byte} {need lo hi : Nat} (h : utf8Lead b = some (need, lo, hi)) :
    0xC2 ≤ b.toNat ∧ b.toNat ≤ 0xF4 ∧ need ≤ 3 := by
  dsimp only [utf8Lead] at h
  split_ifs at h <;> cases h <;> omega

/-- R122: the bytes up to `C1` and from `F5` on begin no sequence. -/
theorem utf8Lead_eq_none {b : Byte} (h : b.toNat ≤ 0xC1 ∨ 0xF5 ≤ b.toNat) : utf8Lead b = none := by
  refine Option.eq_none_iff_forall_ne_some.2 fun ⟨need, lo, hi⟩ hlead => ?_
  have := utf8Lead_eq_some hlead
  omega

/-- Each turn consumes a byte, so fuel beyond the number of bytes left changes nothing. -/
theorem utf8LossyFuel_congr {f g : Nat} {bs : List Byte} (hf : bs.length ≤ f) (hg : bs.length ≤ g) :
    utf8LossyFuel f bs = utf8LossyFuel g bs := by
  induction f generalizing g bs with
  | zero =>
    obtain rfl : bs = [] := by simpa using hf
    cases g <;> rfl
  | succ f ih =>
    match bs, g with
    | [], 0 | [], _ + 1 => rfl
    | b :: bs, g + 1 =>
      simp only [List.length_cons, Nat.add_le_add_iff_right] at hf hg
      have hdrop (n : Nat) : utf8LossyFuel f (bs.drop n) = utf8LossyFuel g (bs.drop n) :=
        ih (by rw [List.length_drop]; omega) (by rw [List.length_drop]; omega)
      simp only [utf8LossyFuel, hdrop, ih hf hg]

/-- The fuel a turn leaves is enough for what the turn leaves. -/
theorem utf8LossyFuel_drop (bs : List Byte) (n : Nat) :
    utf8LossyFuel bs.length (bs.drop n) = utf8Lossy (bs.drop n) :=
  utf8LossyFuel_congr (by rw [List.length_drop]; omega) le_rfl

@[simp] theorem utf8Lossy_nil : utf8Lossy [] = [] := rfl

/-- An ASCII byte is its own character. -/
theorem utf8Lossy_cons_of_ascii {b : Byte} (hb : b.toNat ≤ 0x7F) (bs : List Byte) :
    utf8Lossy (b :: bs) = Char.ofNat b.toNat :: utf8Lossy bs := by
  simp only [utf8Lossy, List.length_cons, utf8LossyFuel, hb, if_true]

/-- A byte that is neither ASCII nor a lead is one U+FFFD. -/
theorem utf8Lossy_cons_of_stray {b : Byte} (hb : ¬ b.toNat ≤ 0x7F) (hlead : utf8Lead b = none) (bs : List Byte) :
    utf8Lossy (b :: bs) = replacementChar :: utf8Lossy bs := by
  simp only [utf8Lossy, List.length_cons, utf8LossyFuel, hb, if_false, hlead]

/-- A lead and the continuation bytes found are one character, the sequence's or U+FFFD. -/
theorem utf8Lossy_cons_of_lead {b : Byte} {need lo hi : Nat} (hlead : utf8Lead b = some (need, lo, hi))
    (bs : List Byte) :
    utf8Lossy (b :: bs) =
      (if (utf8Cont need lo hi bs).length = need then Char.ofNat (utf8Scalar b (utf8Cont need lo hi bs))
        else replacementChar) :: utf8Lossy (bs.drop (utf8Cont need lo hi bs).length) := by
  have hb : ¬ b.toNat ≤ 0x7F := by have := utf8Lead_eq_some hlead; omega
  rw [← utf8LossyFuel_drop]
  simp only [utf8Lossy, List.length_cons, utf8LossyFuel, hb, if_false, hlead]

/-! ### The length of the text -/

/-- Every turn gives one character for one to four bytes. -/
theorem utf8Lossy_cons_exists (b : Byte) (bs : List Byte) :
    ∃ c n, n ≤ 3 ∧ n ≤ bs.length ∧ utf8Lossy (b :: bs) = c :: utf8Lossy (bs.drop n) := by
  by_cases hb : b.toNat ≤ 0x7F
  · exact ⟨_, 0, by simp, by simp, utf8Lossy_cons_of_ascii hb bs⟩
  · cases hlead : utf8Lead b with
    | none => exact ⟨_, 0, by simp, by simp, utf8Lossy_cons_of_stray hb hlead bs⟩
    | some p =>
      obtain ⟨need, lo, hi⟩ := p
      obtain ⟨hneed, hlen⟩ := utf8Cont_length_le need lo hi bs
      exact ⟨_, _, hneed.trans (utf8Lead_eq_some hlead).2.2, hlen, utf8Lossy_cons_of_lead hlead bs⟩

/-- The bytes left after a turn are fewer, so their text's bounds add up with the turn's. -/
theorem utf8Lossy_length (bs : List Byte) :
    (utf8Lossy bs).length ≤ bs.length ∧ bs.length ≤ 4 * (utf8Lossy bs).length := by
  match bs with
  | [] => simp
  | b :: bs =>
    obtain ⟨c, n, hn, hlen, heq⟩ := utf8Lossy_cons_exists b bs
    have ih := utf8Lossy_length (bs.drop n)
    rw [List.length_drop] at ih
    rw [heq, List.length_cons, List.length_cons]
    omega
termination_by bs.length
decreasing_by simp only [List.length_drop, List.length_cons]; omega

theorem utf8Lossy_of_ascii {bs : List Byte} (h : ∀ b ∈ bs, b.toNat ≤ 0x7F) :
    utf8Lossy bs = bs.map fun b => Char.ofNat b.toNat := by
  induction bs with
  | nil => rfl
  | cons b bs ih =>
    obtain ⟨hb, hbs⟩ := List.forall_mem_cons.1 h
    rw [utf8Lossy_cons_of_ascii hb, ih hbs, List.map_cons]

/-! ### Well-formed sequences -/

theorem utf8Cont_cons {need lo hi : Nat} {d : Byte} (hd : lo ≤ d.toNat ∧ d.toNat ≤ hi) (bs : List Byte) :
    utf8Cont (need + 1) lo hi (d :: bs) = d :: utf8Cont need 0x80 0xBF bs :=
  if_pos hd

/-- As many continuation bytes as are needed are all taken, and nothing behind them. -/
theorem utf8Cont_append {cs : List Byte} (hcs : ∀ c ∈ cs, 0x80 ≤ c.toNat ∧ c.toNat ≤ 0xBF) (rest : List Byte) :
    utf8Cont cs.length 0x80 0xBF (cs ++ rest) = cs := by
  induction cs with
  | nil => rfl
  | cons c cs ih =>
    obtain ⟨hc, hcs⟩ := List.forall_mem_cons.1 hcs
    rw [List.length_cons, List.cons_append, utf8Cont_cons hc, ih hcs]

/-- A well-formed sequence at the front is the one character it spells. -/
theorem utf8Lossy_sequence {b d : Byte} {cs : List Byte} {lo hi : Nat}
    (hlead : utf8Lead b = some (cs.length + 1, lo, hi)) (hd : lo ≤ d.toNat ∧ d.toNat ≤ hi)
    (hcs : ∀ c ∈ cs, 0x80 ≤ c.toNat ∧ c.toNat ≤ 0xBF) (rest : List Byte) :
    utf8Lossy (b :: d :: (cs ++ rest)) = Char.ofNat (utf8Scalar b (d :: cs)) :: utf8Lossy rest := by
  have hcont : utf8Cont (cs.length + 1) lo hi (d :: (cs ++ rest)) = d :: cs := by
    rw [utf8Cont_cons hd, utf8Cont_append hcs]
  rw [utf8Lossy_cons_of_lead hlead, hcont, if_pos List.length_cons, List.length_cons, List.drop_succ_cons,
    List.drop_left]

theorem utf8Lead_two {b : Byte} (hb : 0xC2 ≤ b.toNat ∧ b.toNat ≤ 0xDF) : utf8Lead b = some (1, 0x80, 0xBF) :=
  if_pos hb

/-- The second byte after `E0` is not below `A0`, which would be a shorter character's; after `ED` not above `9F`, which
would be a surrogate's. -/
theorem utf8Lead_three {b d : Byte} (hb : 0xE0 ≤ b.toNat ∧ b.toNat ≤ 0xEF) (hd : 0x80 ≤ d.toNat ∧ d.toNat ≤ 0xBF)
    (hshort : b.toNat = 0xE0 → 0xA0 ≤ d.toNat) (hsurr : b.toNat = 0xED → d.toNat ≤ 0x9F) :
    ∃ lo hi, utf8Lead b = some (2, lo, hi) ∧ lo ≤ d.toNat ∧ d.toNat ≤ hi := by
  by_cases hE0 : b.toNat = 0xE0
  · exact ⟨0xA0, 0xBF, by simp [utf8Lead, hE0], hshort hE0, hd.2⟩
  by_cases hED : b.toNat = 0xED
  · exact ⟨0x80, 0x9F, by simp [utf8Lead, hED], hd.1, hsurr hED⟩
  · exact ⟨0x80, 0xBF, by grind [utf8Lead], hd⟩

/-- The second byte after `F0` is not below `90`, which would be a shorter character's; after `F4` not above `8F`, which
would be above U+10FFFF. -/
theorem utf8Lead_four {b d : Byte} (hb : 0xF0 ≤ b.toNat ∧ b.toNat ≤ 0xF4) (hd : 0x80 ≤ d.toNat ∧ d.toNat ≤ 0xBF)
    (hshort : b.toNat = 0xF0 → 0x90 ≤ d.toNat) (hmax : b.toNat = 0xF4 → d.toNat ≤ 0x8F) :
    ∃ lo hi, utf8Lead b = some (3, lo, hi) ∧ lo ≤ d.toNat ∧ d.toNat ≤ hi := by
  by_cases hF0 : b.toNat = 0xF0
  · exact ⟨0x90, 0xBF, by simp [utf8Lead, hF0], hshort hF0, hd.2⟩
  by_cases hF4 : b.toNat = 0xF4
  · exact ⟨0x80, 0x8F, by simp [utf8Lead, hF4], hd.1, hmax hF4⟩
  · exact ⟨0x80, 0xBF, by grind [utf8Lead], hd⟩

/-! ### The encoding of a character -/

open Claims

/-- The two bytes of a scalar value from `80` to `7FF` decode to its character. -/
theorem utf8Lossy_two {v : Nat} (hmin : 0x80 ≤ v) (hmax : v ≤ 0x7FF) {b d : Byte}
    (hb : b.toNat = v / 0x40 + 0xC0) (hd : d.toNat = v % 0x40 + 0x80) (rest : List Byte) :
    utf8Lossy (b :: d :: rest) = Char.ofNat v :: utf8Lossy rest := by
  have hscalar : utf8Scalar b [d] = v := by
    change b.toNat % 0x20 * 0x40 + d.toNat % 0x40 = v
    omega
  rw [← hscalar]
  exact utf8Lossy_sequence (cs := []) (utf8Lead_two (by omega)) (by omega) (by simp) rest

/-- The three bytes of a scalar value from `800` to `FFFF` decode to its character. -/
theorem utf8Lossy_three {v : Nat} (hmin : 0x800 ≤ v) (hmax : v ≤ 0xFFFF) (hsurr : v < 0xD800 ∨ 0xDFFF < v)
    {b d e : Byte} (hb : b.toNat = v / 0x1000 + 0xE0) (hd : d.toNat = v / 0x40 % 0x40 + 0x80)
    (he : e.toNat = v % 0x40 + 0x80) (rest : List Byte) :
    utf8Lossy (b :: d :: e :: rest) = Char.ofNat v :: utf8Lossy rest := by
  have hscalar : utf8Scalar b [d, e] = v := by
    change (b.toNat % 0x10 * 0x40 + d.toNat % 0x40) * 0x40 + e.toNat % 0x40 = v
    omega
  obtain ⟨lo, hi, hlead, hrange⟩ := utf8Lead_three (b := b) (d := d) (by omega) (by omega) (by omega) (by omega)
  rw [← hscalar]
  exact utf8Lossy_sequence (cs := [e]) hlead hrange (by simpa using by omega) rest

/-- The four bytes of a scalar value from `10000` on decode to its character. -/
theorem utf8Lossy_four {v : Nat} (hmin : 0x10000 ≤ v) (hmax : v ≤ 0x10FFFF) {b d e f : Byte}
    (hb : b.toNat = v / 0x40000 + 0xF0) (hd : d.toNat = v / 0x1000 % 0x40 + 0x80)
    (he : e.toNat = v / 0x40 % 0x40 + 0x80) (hf : f.toNat = v % 0x40 + 0x80) (rest : List Byte) :
    utf8Lossy (b :: d :: e :: f :: rest) = Char.ofNat v :: utf8Lossy rest := by
  have hscalar : utf8Scalar b [d, e, f] = v := by
    change ((b.toNat % 0x08 * 0x40 + d.toNat % 0x40) * 0x40 + e.toNat % 0x40) * 0x40 + f.toNat % 0x40 = v
    omega
  obtain ⟨lo, hi, hlead, hrange⟩ := utf8Lead_four (b := b) (d := d) (by omega) (by omega) (by omega) (by omega)
  rw [← hscalar]
  exact utf8Lossy_sequence (cs := [e, f]) hlead hrange (by simpa using by omega) rest

/-- The library's encoding of a character decodes to it, whatever follows. -/
theorem utf8Lossy_utf8Bytes_append (c : Char) (rest : List Byte) :
    utf8Lossy (utf8Bytes c ++ rest) = c :: utf8Lossy rest := by
  have hvalid : c.val.toNat < 0xD800 ∨ 0xDFFF < c.val.toNat ∧ c.val.toNat < 0x110000 := c.valid
  have hbyte (n : Nat) : (UInt8.ofNat n).toBitVec.toNat = n % 256 := by simp
  have hc : c = Char.ofNat c.val.toNat := (Char.ofNat_toNat c).symm
  conv_rhs => rw [hc]
  dsimp only [utf8Bytes, String.utf8EncodeChar]
  split_ifs
  · rw [List.map_singleton, List.singleton_append, utf8Lossy_cons_of_ascii (by rw [hbyte]; omega), hbyte,
      Nat.mod_eq_of_lt (by omega)]
  · exact utf8Lossy_two (by omega) (by omega) (by rw [hbyte]; omega) (by rw [hbyte]; omega) rest
  · exact utf8Lossy_three (by omega) (by omega) (by omega) (by rw [hbyte]; omega) (by rw [hbyte]; omega)
      (by rw [hbyte]; omega) rest
  · exact utf8Lossy_four (by omega) (by omega) (by rw [hbyte]; omega) (by rw [hbyte]; omega)
      (by rw [hbyte]; omega) (by rw [hbyte]; omega) rest

end Sys2Proof

namespace Sys2Proof.Header

/-- Settles O58, by induction over the text: the encoding of its first character is one well-formed sequence. -/
theorem titleDecodesWellFormedText : Obligations.TitleDecodesWellFormedText := by
  unfold Obligations.TitleDecodesWellFormedText
  intro cs
  induction cs with
  | nil => rfl
  | cons c cs ih => rw [List.flatMap_cons, utf8Lossy_utf8Bytes_append, ih]

/-- Settles O57, by the turns of the decoding: each gives one character for one to four bytes. -/
theorem titleTextLength : Obligations.TitleTextLength := by
  unfold Obligations.TitleTextLength
  intro bs
  obtain ⟨hmax, hmin⟩ := utf8Lossy_length bs
  exact ⟨hmax, hmin, utf8Lossy_of_ascii, fun b hb =>
    utf8Lossy_cons_of_stray (by omega) (utf8Lead_eq_none (by omega)) bs⟩

end Sys2Proof.Header
end

section
/-! PROOFS. The construction of a header (41_header.md sections 1 to 3): what each of the six steps answers over the
ROM's length and bytes, the checksum in closed form, and the steps in their order. -/

namespace Sys2Proof

open Claims

/-! ### The steps that read one byte -/

theorem romAt_eq_getElem {buf : List Byte} {i : Nat} (h : i < buf.length) : romAt buf i = buf[i] := by
  simp [romAt, h]

/-- A one-byte region inside the ROM is the byte there. -/
theorem extract_byte {r : Region} {buf : List Byte} {i : Nat} (hstart : r.start = i) (hstop : r.stop = i + 1)
    (h : i + 1 ≤ buf.length) : extract r buf = .ok [romAt buf i] := by
  rw [extract_ok (by omega) (by omega), hstart, hstop, List.drop_eq_getElem_cons h, Nat.add_sub_cancel_left,
    romAt_eq_getElem h, List.take_succ_cons, List.take_zero]

/-- A step that reads a one-byte region inside the ROM goes on with the byte there. -/
theorem readByte_bind {α : Type} {r : Region} {buf : List Byte} {i : Nat} (hstart : r.start = i)
    (hstop : r.stop = i + 1) (h : i + 1 ≤ buf.length) (k : Byte → Except DecodeError α) :
    (extract r buf >>= fun s => toU8 s >>= k) = k (romAt buf i) := by
  rw [extract_byte hstart hstop h]
  rfl

/-- A step that reads a region beyond the ROM's end fails, whatever it does with the bytes. -/
theorem extract_bind_short {α : Type} {r : Region} {buf : List Byte} (h : buf.length < r.stop)
    (k : List Byte → Except DecodeError α) :
    extract r buf >>= k = .error (.regionOutOfBounds r.start r.stop buf.length) := by
  rw [extract_short h, error_bind]

/-- Step 2 over a ROM that ends before its code (R123). -/
theorem romCapacityStep_short {buf : List Byte} (h : buf.length < 0x149) :
    romCapacityStep buf = .error (.regionOutOfBounds 0x148 0x149 buf.length) :=
  extract_bind_short h _

/-- Step 2 over a ROM with a known code (R123). -/
theorem romCapacityStep_of_some {buf : List Byte} {c : RomCapacity} (h : 0x149 ≤ buf.length)
    (hc : RomCapacity.ofCode (romAt buf 0x148) = some c) : romCapacityStep buf = .ok c := by
  rw [romCapacityStep, readByte_bind (i := 0x148) rfl rfl h, hc]
  rfl

/-- Step 2 over a ROM with an unmapped code (R123, R205). -/
theorem romCapacityStep_of_none {buf : List Byte} (h : 0x149 ≤ buf.length)
    (hc : RomCapacity.ofCode (romAt buf 0x148) = none) :
    romCapacityStep buf = .error (.unknownROMSize (romAt buf 0x148)) := by
  rw [romCapacityStep, readByte_bind (i := 0x148) rfl rfl h, hc]

/-- Step 3 over a ROM that ends before its code (R124). -/
theorem ramCapacityStep_short {buf : List Byte} (h : buf.length < 0x14A) :
    ramCapacityStep buf = .error (.regionOutOfBounds 0x149 0x14A buf.length) :=
  extract_bind_short h _

/-- Step 3 over a ROM with a known code (R124). -/
theorem ramCapacityStep_of_some {buf : List Byte} {c : RamCapacity} (h : 0x14A ≤ buf.length)
    (hc : RamCapacity.ofCode (romAt buf 0x149) = some c) : ramCapacityStep buf = .ok c := by
  rw [ramCapacityStep, readByte_bind (i := 0x149) rfl rfl h, hc]
  rfl

/-- Step 3 over a ROM with an unmapped code (R124, R206). -/
theorem ramCapacityStep_of_none {buf : List Byte} (h : 0x14A ≤ buf.length)
    (hc : RamCapacity.ofCode (romAt buf 0x149) = none) :
    ramCapacityStep buf = .error (.unknownRAMSize (romAt buf 0x149)) := by
  rw [ramCapacityStep, readByte_bind (i := 0x149) rfl rfl h, hc]

/-- Step 4 over a ROM whose code has a component list (R125, R126). -/
theorem componentsStep_of_some {C : ComponentTable} {buf : List Byte} {tags : List ComponentTag}
    (h : 0x148 ≤ buf.length) (hc : C.lookup (romAt buf 0x147) = some tags) (r : RomCapacity) (a : RamCapacity) :
    componentsStep C buf r a = .ok (tags.map (ComponentTag.attach r a)) := by
  rw [componentsStep, readByte_bind (i := 0x147) rfl rfl h, hc]
  rfl

/-- Step 4 over a ROM whose code has none (R125, R207). -/
theorem componentsStep_of_none {C : ComponentTable} {buf : List Byte}
    (h : 0x148 ≤ buf.length) (hc : C.lookup (romAt buf 0x147) = none) (r : RomCapacity) (a : RamCapacity) :
    componentsStep C buf r a = .error (.unknownComponents (romAt buf 0x147)) := by
  rw [componentsStep, readByte_bind (i := 0x147) rfl rfl h, hc]

/-- Step 5a (R127). -/
theorem colorModeFlag_of_le {buf : List Byte} (h : 0x144 ≤ buf.length) :
    colorModeFlag buf = .ok (decide (romAt buf 0x143 = 0x80)) :=
  readByte_bind (i := 0x143) rfl rfl h _

/-- Step 5b (R128). -/
theorem superModeFlag_of_le {buf : List Byte} (h : 0x147 ≤ buf.length) :
    superModeFlag buf = .ok (decide (romAt buf 0x146 = 0x03)) :=
  readByte_bind (i := 0x146) rfl rfl h _

/-- The stored checksum byte of a ROM that ends before it (R130). -/
theorem storedChecksum_short {buf : List Byte} (h : buf.length < 0x14E) :
    storedChecksum buf = .error (.regionOutOfBounds 0x14D 0x14E buf.length) :=
  extract_bind_short h _

/-- The stored checksum byte (R130). -/
theorem storedChecksum_of_le {buf : List Byte} (h : 0x14E ≤ buf.length) :
    storedChecksum buf = .ok (romAt buf 0x14D) := by
  rw [storedChecksum, extract_byte (i := 0x14D) rfl rfl h]
  rfl

/-! ### The steps that read an array -/

/-- An array region inside the ROM is read whole: the slice has the length that the conversion checks. -/
theorem readArray {r : Region} {buf : List Byte} {n : Nat} (hstop : r.stop = r.start + n) (h : r.stop ≤ buf.length) :
    extract r buf >>= toArray n = .ok ((buf.drop r.start).take n) := by
  have hlen : ((buf.drop r.start).take n).length = n := by
    rw [List.length_take, List.length_drop]
    omega
  rw [extract_ok (by omega) h, ok_bind, hstop, Nat.add_sub_cancel_left, toArray, if_pos hlen]

/-- Step 1a (R121). -/
theorem titleBytes_of_le {buf : List Byte} (h : 0x144 ≤ buf.length) :
    titleBytes buf = .ok ((buf.drop 0x134).take 16) :=
  readArray (r := .title) rfl h

/-- Step 1a over a ROM that ends within the title (R121). -/
theorem titleBytes_short {buf : List Byte} (h : buf.length < 0x144) :
    titleBytes buf = .error (.regionOutOfBounds 0x134 0x144 buf.length) :=
  extract_bind_short h _

/-! ### The checksum (R129) -/

/-- The accumulator loses every byte's value and one for each byte. -/
theorem checksumAcc_eq (cs : List Byte) : checksumAcc cs = -((cs.map BitVec.toNat).sum + cs.length : Int) := by
  have hacc (a : Int) : cs.foldl (fun acc b => acc - (b.toNat : Int) - 1) a
      = a - ((cs.map BitVec.toNat).sum + cs.length : Int) := by
    induction cs generalizing a with
    | nil => simp
    | cons b cs ih =>
      rw [List.foldl_cons, ih, List.map_cons, List.sum_cons, List.length_cons]
      omega
  rw [checksumAcc, hacc, zero_sub]

/-- The bytes of a sequence sum up to at most 255 each. -/
theorem sum_toNat_le (cs : List Byte) : (cs.map BitVec.toNat).sum ≤ 255 * cs.length := by
  have hmax : ∀ n ∈ cs.map BitVec.toNat, n ≤ 255 := by
    intro n hn
    obtain ⟨b, _, rfl⟩ := List.mem_map.1 hn
    have := b.isLt
    omega
  simpa [mul_comm] using List.sum_le_card_nsmul _ _ hmax

/-- A ROM that holds the range has its 25 bytes. -/
theorem length_ckRange {buf : List Byte} (h : 0x14D ≤ buf.length) : ((buf.drop 0x134).take 25).length = 25 := by
  rw [List.length_take, List.length_drop]
  omega

/-- The accumulator over a ROM that holds the range. -/
theorem checksumAcc_ckRange {buf : List Byte} (h : 0x14D ≤ buf.length) :
    checksumAcc ((buf.drop 0x134).take 25) = -((((buf.drop 0x134).take 25).map BitVec.toNat).sum + 25 : Int) := by
  rw [checksumAcc_eq, length_ckRange h]
  rfl

/-- Step 6a over a ROM that holds the range. -/
theorem computedChecksum_of_le {buf : List Byte} (h : 0x14D ≤ buf.length) :
    computedChecksum buf =
      .ok (BitVec.ofInt 8 (-((((buf.drop 0x134).take 25).map BitVec.toNat).sum + 25 : Int))) := by
  rw [computedChecksum, ← bind_assoc, readArray (r := .ckRange) (n := 25) rfl h, ok_bind, pure_eq_ok, checksumByte,
    ← checksumAcc_ckRange h]
  rfl

/-- Step 6a over a ROM that ends within the range. -/
theorem computedChecksum_short {buf : List Byte} (h : buf.length < 0x14D) :
    computedChecksum buf = .error (.regionOutOfBounds 0x134 0x14D buf.length) :=
  extract_bind_short h _

/-! ### The steps in their order (R120) -/

/-- What a constructor answers once the six steps have succeeded (R131, R132). -/
def HeaderParse.answer (m : Mode) (p : HeaderParse) : Except DecodeError CartridgeHeader :=
  if m = .strict ∧ p.header.headerChecksumOk = false then .error (.badHeaderChecksum p.computed p.stored)
  else .ok p.header

/-- Both constructors run the same steps and differ in what they answer of them. -/
theorem constructHeader_eq_bind (m : Mode) (C : ComponentTable) (buf : List Byte) :
    constructHeader m C buf = parseHeader C buf >>= HeaderParse.answer m := by
  cases m with
  | lenient => rfl
  | strict =>
    refine congrArg (parseHeader C buf >>= ·) (funext fun p => ?_)
    cases hok : p.header.headerChecksumOk <;> simp [HeaderParse.answer, hok]

/-- The six steps run in order over the length and the bytes of the ROM: a step that fails ends the run with its error,
a step that succeeds hands what it found to the next. -/
theorem constructHeader_eq_headerResult (m : Mode) (C : ComponentTable) (buf : List Byte) :
    constructHeader m C buf = headerResult m C buf := by
  rw [constructHeader_eq_bind, parseHeader]
  unfold headerResult
  split
  next h144 => rw [titleBytes_short h144, error_bind, error_bind]
  next h144 =>
  rw [titleBytes_of_le (by omega), ok_bind]
  split
  next h149 => rw [romCapacityStep_short h149, error_bind, error_bind]
  next h149 =>
  split
  next hrom => rw [romCapacityStep_of_none (by omega) hrom, error_bind, error_bind]
  next romCap hrom =>
  rw [romCapacityStep_of_some (by omega) hrom, ok_bind]
  split
  next h14A => rw [ramCapacityStep_short h14A, error_bind, error_bind]
  next h14A =>
  split
  next hram => rw [ramCapacityStep_of_none (by omega) hram, error_bind, error_bind]
  next ramCap hram =>
  rw [ramCapacityStep_of_some (by omega) hram, ok_bind]
  split
  next hcomps => rw [componentsStep_of_none (by omega) hcomps, error_bind, error_bind]
  next tags hcomps =>
  rw [componentsStep_of_some (by omega) hcomps, ok_bind, colorModeFlag_of_le (by omega), ok_bind,
    superModeFlag_of_le (by omega), ok_bind]
  split
  next h14D => rw [computedChecksum_short h14D, error_bind, error_bind]
  next h14D =>
  rw [computedChecksum_of_le (by omega), ok_bind]
  split
  next h14E => rw [storedChecksum_short h14E, error_bind, error_bind]
  next h14E =>
  rw [storedChecksum_of_le (by omega), ok_bind, pure_eq_ok, ok_bind]
  simp only [HeaderParse.answer, checksumVerdict, beq_eq_false_iff_ne]
  rfl

end Sys2Proof

namespace Sys2Proof.Header

open Sys2Proof.Machine

/-- Settles O56: the accumulator is minus the sum of the bytes and their number, and each byte is at most 255. -/
theorem headerChecksumFormula : Obligations.HeaderChecksumFormula := by
  unfold Obligations.HeaderChecksumFormula
  intro buf
  refine ⟨fun h => ?_, computedChecksum_short⟩
  have hsum := sum_toNat_le ((buf.drop 0x134).take 25)
  rw [length_ckRange h] at hsum
  rw [checksumAcc_ckRange h]
  refine ⟨_, computedChecksum_of_le h, ?_, by omega, by omega⟩
  rw [BitVec.toNat_ofInt]
  exact Int.toNat_of_nonneg (Int.emod_nonneg _ (by decide))

/-- Settles O36: a CONSTRUCT answers what its constructor gives for the loaded ROM's bytes, which is the first failing
step's error or the header. -/
theorem constructFollowsTheSixSteps : Obligations.ConstructFollowsTheSixSteps := by
  unfold Obligations.ConstructFollowsTheSixSteps
  intro s m rest hp
  obtain ⟨params, rom, hdr, st, consumer, pending, out⟩ := s
  rw [step_of_request hp, serve, serveConstruct]
  cases rom with
  | none => rfl
  | some mem =>
    simp only [State.setPending_rom, State.setPending_params, constructHeader_eq_headerResult]
    cases Claims.headerResult m params.components (Memory.bytes mem) <;> rfl

end Sys2Proof.Header
end

section
/-! PROOFS. The queries (41_header.md section 4): each is served from the Header Register alone. -/

namespace Sys2Proof.Machine

open Claims

/-- `has_component` is membership (R136). -/
theorem hasComponent_eq (h : CartridgeHeader) (c : Component) : h.hasComponent c = decide (c ∈ h.components) := by
  rw [CartridgeHeader.hasComponent, List.any_beq', List.contains_eq_mem]

/-- A query reads the header that the register holds and writes nothing (R134 to R139). -/
theorem serveQuery_of_some {s : State} {h : CartridgeHeader} (hh : s.hdr = some h)
    (answer : CartridgeHeader → Response) : serveQuery answer s = .next (s.respond (answer h)) := by
  rw [serveQuery, hh]

/-- A query of an empty register is a model fault (R140). -/
theorem serveQuery_of_none {s : State} (hh : s.hdr = none) (answer : CartridgeHeader → Response) :
    serveQuery answer s = .fault .noHeader := by
  rw [serveQuery, hh]

/-- A request that has an answer is served by reading that answer from the Header Register. -/
theorem serve_of_queryAnswer {h : CartridgeHeader} {q : Request} {a : Response} (hq : queryAnswer h q = some a) :
    ∃ answer, answer h = a ∧ serve q = serveQuery answer := by
  cases q with
  | load | construct | decode | consume => cases hq
  | hasComponent c =>
    refine ⟨_, ?_, rfl⟩
    rw [hasComponent_eq]
    exact Option.some.inj hq
  | title | components | isColorMode | isSuperMode | romCapacity | ramCapacity | headerChecksumOk =>
    refine ⟨_, ?_, rfl⟩
    exact Option.some.inj hq

end Sys2Proof.Machine

namespace Sys2Proof.Header

open Sys2Proof.Machine

/-- Settles O38: the query takes its field of the header that the register holds. -/
theorem queriesAnswerTheHeader : Obligations.QueriesAnswerTheHeader := by
  unfold Obligations.QueriesAnswerTheHeader
  intro s h q a rest hp hh hq
  obtain ⟨answer, rfl, hserve⟩ := serve_of_queryAnswer hq
  rw [step_of_request hp, hserve, serveQuery_of_some (s := s.setPending rest) hh]
  rfl

/-- Settles O39: without a header there is no field to take. -/
theorem queryWithoutHeaderFaults : Obligations.QueryWithoutHeaderFaults := by
  unfold Obligations.QueryWithoutHeaderFaults
  rintro s q rest hp hh ⟨h, a, hq⟩
  obtain ⟨answer, -, hserve⟩ := serve_of_queryAnswer hq
  rw [step_of_request hp, hserve, serveQuery_of_none (s := s.setPending rest) hh]

end Sys2Proof.Header
end

section
/-! PROOFS. The capacity tables (41_header.md section 5): a capacity's byte count tells which capacity it is. -/

namespace Sys2Proof

/-- The ROM capacity of a bank count; the smallest one for a count that no capacity has. -/
def RomCapacity.ofBanks : Nat → RomCapacity
  | 4 => .rom64K
  | 8 => .rom128K
  | 16 => .rom256K
  | 32 => .rom512K
  | 64 => .rom1M
  | 128 => .rom2M
  | 72 => .rom72B
  | 80 => .rom80B
  | 96 => .rom96B
  | _ => .rom32K

theorem RomCapacity.ofBanks_banks (c : RomCapacity) : RomCapacity.ofBanks c.banks = c := by
  cases c <;> rfl

/-- A bank is not empty, so equal byte counts are equal bank counts (R90). -/
theorem RomCapacity.bytes_injective : Function.Injective RomCapacity.bytes := fun c c' h =>
  have hbanks : c.banks = c'.banks := Nat.eq_of_mul_eq_mul_right (by decide : 0 < Config.bankSize) h
  Function.LeftInverse.injective RomCapacity.ofBanks_banks hbanks

/-- The RAM capacity of a byte count; no RAM for a count that no capacity has. -/
def RamCapacity.ofBytes : Nat → RamCapacity
  | 2048 => .ram2K
  | 8192 => .ram8K
  | 32768 => .ram32K
  | 131072 => .ram128K
  | _ => .ramNone

theorem RamCapacity.ofBytes_bytes (c : RamCapacity) : RamCapacity.ofBytes c.bytes = c := by
  cases c <;> rfl

end Sys2Proof

namespace Sys2Proof.Header

/-- Settles O51: a byte decodes to a capacity exactly where it is its code, and the byte counts have inverses. -/
theorem capacityTablesRoundTrip : Obligations.CapacityTablesRoundTrip := by
  unfold Obligations.CapacityTablesRoundTrip
  exact ⟨fun c => ⟨RomCapacity.ofCode_eq_some_iff.2 rfl, rfl⟩, fun b c h => (RomCapacity.ofCode_eq_some_iff.1 h).symm,
    fun c => RamCapacity.ofCode_eq_some_iff.2 rfl, fun b c h => (RamCapacity.ofCode_eq_some_iff.1 h).symm,
    fun _ _ h => RomCapacity.bytes_injective h,
    fun _ _ h => Function.LeftInverse.injective RamCapacity.ofBytes_bytes h⟩

end Sys2Proof.Header
end

section
/-! PROOFS. The decoder (42_decoder.md): the form a window has under every OPTABLE, the answer each form rule gives, the
transitions a decode takes, the bytes it reads, and what the instructions' meanings answer. -/

namespace Sys2Proof

/-! ### The form of a window under every OPTABLE (R163, R164)

Only `DD CB` and `FD CB` need an admissible OPTABLE to be answered by their form (`decodeWindow_eq_formDecode`). -/

theorem decodeWindow_of_next {T : OpTable} {w : List Byte} {st : Stage} (h : Stage.next T w .start = st) :
    decodeWindow T w = (Stage.run T w 4 st).response w := by
  subst h; rfl

theorem decodeWindow_main (T : OpTable) {b : Byte} (hb : isPrefixByte b = false) (w : List Byte) :
    decodeWindow T (b :: w) = formMain T (b :: w) := by
  have hnext : Stage.next T (b :: w) .start = .opcode .none 0 none := by
    simp_all [Stage.next, Stage.orFail, isPrefixByte]
  exact (decodeWindow_of_next hnext).trans (Stage.response_run_opcode T _ 2 _ _ (by simp))

theorem decodeWindow_cb (T : OpTable) (w : List Byte) : decodeWindow T (0xCB :: w) = formCb T (0xCB :: w) := by
  have hnext : Stage.next T (0xCB :: w) .start = .opcode .cb 1 none := by simp [Stage.next, Stage.orFail]
  exact (decodeWindow_of_next hnext).trans (Stage.response_run_opcode T _ 2 _ _ (by simp))

theorem decodeWindow_ed (T : OpTable) (w : List Byte) : decodeWindow T (0xED :: w) = formEd T (0xED :: w) := by
  have hnext : Stage.next T (0xED :: w) .start = .opcode .ed 1 none := by simp [Stage.next, Stage.orFail]
  exact (decodeWindow_of_next hnext).trans (Stage.response_run_opcode T _ 2 _ _ (by simp))

theorem Stage.next_start_idx (T : OpTable) (p : IdxPrefix) (w : List Byte) :
    Stage.next T (p.byte :: w) .start = .prefix2 p := by
  cases p <;> simp [Stage.next, Stage.orFail, IdxPrefix.byte]

/-- After `DD` or `FD` an opcode byte's entry tells the form. -/
theorem decodeWindow_idx (T : OpTable) (p : IdxPrefix) {op : Byte} (hop : isPrefixByte op = false) (w : List Byte) :
    decodeWindow T (p.byte :: op :: w) = entryFor T p.ctx op >>= fun e =>
      if e.idxrel then formIdxD T p (p.byte :: op :: w) else formIdx T p (p.byte :: op :: w) := by
  have hread : byteAt (p.byte :: op :: w) 1 = .ok op := byteAt_eq_ok_iff.2 rfl
  have hnext : Stage.next T (p.byte :: op :: w) (.prefix2 p) = .opcode p.ctx 1 none := by
    simp_all [Stage.next, Stage.orFail, isPrefixByte, isBadSecondPrefix]
  rw [decodeWindow_of_next (Stage.next_start_idx T p _), Stage.run, hnext, Stage.response_run_idxOpcode T _ 0 p,
    hread, ok_bind]

theorem decodeWindow_idxCb {T : OpTable} (hT : T.wf = true) (p : IdxPrefix) (w : List Byte) :
    decodeWindow T (p.byte :: 0xCB :: w) = formIdxCb T p (p.byte :: 0xCB :: w) := by
  rw [decodeWindow_eq_formDecode hT, formDecode_idxCb]

/-- After `DD` or `FD` an illegal second byte ends the decode (R180). -/
theorem decodeWindow_badPrefix (T : OpTable) (p : IdxPrefix) {q : Byte} (hq : isBadSecondPrefix q = true)
    (w : List Byte) : decodeWindow T (p.byte :: q :: w) = .error (.unknownPrefix q) := by
  have hcb : q ≠ 0xCB := by rintro rfl; cases hq
  have hnext : Stage.next T (p.byte :: q :: w) (.prefix2 p) = .failed (.unknownPrefix q) := by
    have hread : byteAt (p.byte :: q :: w) 1 = .ok q := byteAt_eq_ok_iff.2 rfl
    simp only [Stage.next, Stage.orFail, hread, if_neg hcb, hq, if_true]
  rw [decodeWindow_of_next (Stage.next_start_idx T p _), Stage.run, hnext, Stage.run_failed]
  rfl

/-- A window of one of the prefixes lacks byte 1 (R163, R165). -/
theorem decodeWindow_singleton_idx (T : OpTable) (p : IdxPrefix) :
    decodeWindow T [p.byte] = .error (.regionOutOfBounds 1 2 1) := by
  cases p <;> rfl

/-! ### The forms without an entry (R203) -/

theorem opcodeForm_of_none {T : OpTable} {ctx : Ctx} {op : Byte} {w : List Byte} {n : Nat} (d : Option Int)
    (hop : byteAt w n = .ok op) (h : T.lookup ctx.table op = none) :
    opcodeForm T ctx d n w = .error (.unknownOpcode op ctx) := by
  simp [opcodeForm, hop, entryFor_none h]

theorem formIdxD_of_none {T : OpTable} (p : IdxPrefix) {a op : Byte} (w : List Byte) (h : T.lookup .idx op = none) :
    formIdxD T p (a :: op :: w) = .error (.unknownOpcode op p.ctx) := by
  have hop : byteAt (a :: op :: w) 1 = .ok op := byteAt_eq_ok_iff.2 rfl
  simp [formIdxD, hop, entryFor_none (p.table_ctx.symm ▸ h)]

theorem formIdxCb_of_none {T : OpTable} (p : IdxPrefix) {a q d op : Byte} (w : List Byte)
    (h : T.lookup .idxcb op = none) :
    formIdxCb T p (a :: q :: d :: op :: w) = .error (.unknownOpcode op p.ctxCB) := by
  have hd : dispAt (a :: q :: d :: op :: w) 2 = .ok (sext8 d) := dispAt_eq_ok_iff.2 ⟨d, rfl, rfl⟩
  have hop : byteAt (a :: q :: d :: op :: w) 3 = .ok op := byteAt_eq_ok_iff.2 rfl
  simp [formIdxCb, hd, hop, entryFor_none (p.table_ctxCB.symm ▸ h)]

/-! ### The forms from the immediate on (R167, R168) -/

/-- The answer of a form that has read its opcode byte's entry and its displacement, `n` bytes in all, with `rest`
behind them: the immediate is cut off and fails as a whole, or it completes the record. -/
def immediateAnswer (ctx : Ctx) (op : Byte) (e : Entry) (d : Option Int) (n : Nat) (rest : List Byte) :
    Except DecodeError DecodedInstruction :=
  if rest.length < e.imm.val then .error (.regionOutOfBounds n (n + e.imm.val) (rest.length + n))
  else
    .ok { ctx := ctx, opcode := op, name := e.name, disp := d, imm := assembleImm (rest.take e.imm.val)
          length := n + e.imm.val }

/-- A form that has read `pre` ends in the immediate's answer. -/
theorem immAt_bind_eq_immediateAnswer (ctx : Ctx) (op : Byte) (e : Entry) (d : Option Int) (pre rest : List Byte) :
    (immAt (pre ++ rest) pre.length e.imm >>= fun imm =>
        .ok { ctx := ctx, opcode := op, name := e.name, disp := d, imm := imm, length := pre.length + e.imm.val })
      = immediateAnswer ctx op e d pre.length rest := by
  unfold immediateAnswer
  split
  · rw [immAt_short (by simpa using ‹_›), error_bind, List.length_append, Nat.add_comm rest.length]
  · rw [immAt_ok (by simp; omega), ok_bind, List.drop_left]

theorem opcodeForm_of_some {T : OpTable} {ctx : Ctx} {op : Byte} {e : Entry} (d : Option Int) (pre rest : List Byte)
    (he : T.lookup ctx.table op = some e) :
    opcodeForm T ctx d pre.length (pre ++ op :: rest) = immediateAnswer ctx op e d (pre.length + 1) rest := by
  have hop : byteAt (pre ++ op :: rest) pre.length = .ok op := by simp [byteAt_eq_ok_iff]
  have hrest := immAt_bind_eq_immediateAnswer ctx op e d (pre ++ [op]) rest
  simpa [opcodeForm, hop, entryFor_some he] using hrest

theorem formIdxD_of_some {T : OpTable} (p : IdxPrefix) {a op d : Byte} {e : Entry} (rest : List Byte)
    (he : T.lookup .idx op = some e) :
    formIdxD T p (a :: op :: d :: rest) = immediateAnswer p.ctx op e (some (sext8 d)) 3 rest := by
  have hop : byteAt (a :: op :: d :: rest) 1 = .ok op := byteAt_eq_ok_iff.2 rfl
  have hd : dispAt (a :: op :: d :: rest) 2 = .ok (sext8 d) := dispAt_eq_ok_iff.2 ⟨d, rfl, rfl⟩
  simpa [formIdxD, hop, hd, entryFor_some (p.table_ctx.symm ▸ he)] using
    immAt_bind_eq_immediateAnswer p.ctx op e (some (sext8 d)) [a, op, d] rest

/-- F-IDXD where the window ends before the displacement (R166). -/
theorem formIdxD_short {T : OpTable} (p : IdxPrefix) {a op : Byte} {e : Entry} (he : T.lookup .idx op = some e) :
    formIdxD T p [a, op] = .error (.regionOutOfBounds 2 3 2) := by
  have hop : byteAt [a, op] 1 = .ok op := byteAt_eq_ok_iff.2 rfl
  have hd : dispAt [a, op] 2 = .error (.regionOutOfBounds 2 3 2) := dispAt_short (by simp)
  simp [formIdxD, hop, hd, entryFor_some (p.table_ctx.symm ▸ he)]

/-! ### The transitions a decode takes (R161) -/

/-- A bound of the transitions from a stage to `Done` or `Failed`: a displacement follows the opcode only in the
contexts `DD` and `FD`. -/
def Stage.transitionsLeft : Stage → Nat
  | .start => 5
  | .prefix2 _ => 4
  | .opcode ctx _ _ => 2 + if ctx = .dd ∨ ctx = .fd then 1 else 0
  | .disp ctx _ none => 3 + if ctx = .dd ∨ ctx = .fd then 1 else 0
  | .disp _ _ (some _) => 2
  | .imm _ _ _ _ _ => 1
  | .done _ => 0
  | .failed _ => 0

theorem Stage.transitionsLeft_orFail_le {α : Type} {x : Except DecodeError α} {k : α → Stage} {n : Nat}
    (hk : ∀ a, (k a).transitionsLeft ≤ n) : (Stage.orFail x k).transitionsLeft ≤ n := by
  cases x with
  | ok a => exact hk a
  | error e => exact Nat.zero_le n

theorem Stage.transitionsLeft_next_le (T : OpTable) (w : List Byte) (st : Stage) :
    (st.next T w).transitionsLeft ≤ st.transitionsLeft - 1 := by
  cases st with
  | start =>
    refine transitionsLeft_orFail_le fun b0 => ?_
    split_ifs <;> simp [transitionsLeft]
  | prefix2 p =>
    refine transitionsLeft_orFail_le fun b1 => ?_
    split_ifs <;> cases p <;> simp [transitionsLeft, IdxPrefix.ctx, IdxPrefix.ctxCB]
  | opcode ctx pos d =>
    refine transitionsLeft_orFail_le fun ob => transitionsLeft_orFail_le fun e => ?_
    by_cases hctx : ctx = .dd ∨ ctx = .fd
    · cases hx : e.idxrel <;> simp [transitionsLeft, hctx]
    · simp [transitionsLeft, hctx]
  | disp ctx pos op =>
    refine transitionsLeft_orFail_le fun d => ?_
    cases op with
    | none => by_cases hctx : ctx = .dd ∨ ctx = .fd <;> simp [transitionsLeft, hctx]
    | some _ => simp [transitionsLeft]
  | imm ctx pos ob e d => exact transitionsLeft_orFail_le fun imm => Nat.le_refl 0
  | done r => exact Nat.le_refl 0
  | failed e => exact Nat.le_refl 0

theorem Stage.transitionsLeft_run_le (T : OpTable) (w : List Byte) (k : Nat) (st : Stage) :
    (Stage.run T w k st).transitionsLeft ≤ st.transitionsLeft - k := by
  induction k generalizing st with
  | zero => exact Nat.le_refl _
  | succ k ih =>
    calc (Stage.run T w k (st.next T w)).transitionsLeft
      _ ≤ (st.next T w).transitionsLeft - k := ih _
      _ ≤ st.transitionsLeft - (k + 1) := by have := transitionsLeft_next_le T w st; omega

theorem Stage.ended_of_transitionsLeft_eq_zero {st : Stage} (h : st.transitionsLeft = 0) :
    (∃ r, st = .done r) ∨ (∃ e, st = .failed e) := by
  cases st with
  | done r => exact .inl ⟨r, rfl⟩
  | failed e => exact .inr ⟨e, rfl⟩
  | disp ctx pos op => cases op <;> simp [transitionsLeft] at h
  | start | prefix2 | opcode | imm => simp [transitionsLeft] at h

/-! ### The first four bytes (R170)

Two bytes behind the opcode hold every immediate, and R82 leaves room for the displacement. -/

/-- The answer over the bytes that may follow a window is one, and no bounds error: the window held all it needs. -/
def Settled (answer : List Byte → Except DecodeError DecodedInstruction) : Prop :=
  ∃ x, (∀ rest, answer rest = x) ∧ ∀ a b n, x ≠ .error (.regionOutOfBounds a b n)

theorem settled_immediateAnswer (ctx : Ctx) (op : Byte) {e : Entry} (d : Option Int) (n : Nat) {bs : List Byte}
    (hk : e.imm.val ≤ bs.length) : Settled fun rest => immediateAnswer ctx op e d n (bs ++ rest) := by
  have hlong (rest : List Byte) : ¬ (bs ++ rest).length < e.imm.val := by simp; omega
  simp only [immediateAnswer, hlong, if_false, List.take_append_of_le_length hk]
  exact ⟨_, fun _ => rfl, by simp⟩

theorem settled_opcodeForm (T : OpTable) (ctx : Ctx) (d : Option Int) (pre : List Byte) (op : Byte)
    {bs : List Byte} (hbs : 2 ≤ bs.length) :
    Settled fun rest => opcodeForm T ctx d pre.length (pre ++ op :: (bs ++ rest)) := by
  cases he : T.lookup ctx.table op with
  | none => exact ⟨_, fun rest => opcodeForm_of_none d (by simp [byteAt_eq_ok_iff]) he, by simp⟩
  | some e =>
    simp only [opcodeForm_of_some d pre _ he]
    exact settled_immediateAnswer ctx op d _ (by omega)

/-- R82: an index-relative entry has at most one immediate byte. -/
theorem OpTable.imm_le_one_of_idxrel {T : OpTable} (hT : T.wf = true) {b : Byte} {e : Entry}
    (he : T.lookup .idx b = some e) (hx : e.idxrel = true) : e.imm.val ≤ 1 := by
  have hok := T.wf_lookup hT he
  simp only [entryOk, hx, Bool.and_eq_true] at hok
  simpa using hok.1

theorem settled_idx {T : OpTable} (hT : T.wf = true) (p : IdxPrefix) {op : Byte} (hop : isPrefixByte op = false)
    (c d : Byte) : Settled fun rest => decodeWindow T (p.byte :: op :: c :: d :: rest) := by
  simp only [decodeWindow_idx T p hop]
  cases he : T.lookup .idx op with
  | none =>
    simp only [entryFor_none (p.table_ctx.symm ▸ he), error_bind]
    exact ⟨_, fun _ => rfl, by simp⟩
  | some e =>
    simp only [entryFor_some (p.table_ctx.symm ▸ he), ok_bind]
    cases hx : e.idxrel with
    | false => exact settled_opcodeForm T p.ctx none [p.byte] op (bs := [c, d]) (Nat.le_refl 2)
    | true =>
      simp only [if_true, formIdxD_of_some p _ he]
      exact settled_immediateAnswer p.ctx op _ 3 (bs := [d]) (T.imm_le_one_of_idxrel hT he hx)

theorem settled_idxCb {T : OpTable} (hT : T.wf = true) (p : IdxPrefix) (d op : Byte) :
    Settled fun rest => decodeWindow T (p.byte :: 0xCB :: d :: op :: rest) := by
  simp only [decodeWindow_idxCb hT]
  cases he : T.lookup .idxcb op with
  | none => exact ⟨_, fun rest => formIdxCb_of_none p rest he, by simp⟩
  | some e => exact ⟨_, fun rest => formIdxCb_append 0xCB d rest he, by simp⟩

theorem settled_prefix {T : OpTable} (hT : T.wf = true) (p : IdxPrefix) (b c d : Byte) :
    Settled fun rest => decodeWindow T (p.byte :: b :: c :: d :: rest) := by
  by_cases hcb : b = 0xCB
  · subst hcb
    exact settled_idxCb hT p c d
  cases hbad : isBadSecondPrefix b with
  | true => exact ⟨_, fun rest => decodeWindow_badPrefix T p hbad _, by simp⟩
  | false => exact settled_idx hT p (isPrefixByte_eq_false hcb hbad) c d

/-- Under an admissible OPTABLE four bytes settle a decode. -/
theorem settled_decodeWindow {T : OpTable} (hT : T.wf = true) (a b c d : Byte) :
    Settled fun rest => decodeWindow T (a :: b :: c :: d :: rest) := by
  by_cases hcb : a = 0xCB
  · subst hcb
    simp only [decodeWindow_cb]
    exact settled_opcodeForm T .cb none [0xCB] b (bs := [c, d]) (Nat.le_refl 2)
  by_cases hed : a = 0xED
  · subst hed
    simp only [decodeWindow_ed]
    exact settled_opcodeForm T .ed none [0xED] b (bs := [c, d]) (Nat.le_refl 2)
  by_cases hdd : a = 0xDD
  · subst hdd
    exact settled_prefix hT .dd b c d
  by_cases hfd : a = 0xFD
  · subst hfd
    exact settled_prefix hT .fd b c d
  · have ha : isPrefixByte a = false := by simp_all [isPrefixByte]
    simp only [decodeWindow_main T ha]
    exact settled_opcodeForm T .none none [] a (bs := [b, c, d]) (by simp)

end Sys2Proof

namespace Sys2Proof.Machine

/-- `DD 09` and `FD 09` give the record of the entry that R86 fixes, under every OPTABLE (R179). -/
theorem decodeWindow_idx09 (T : OpTable) (p : IdxPrefix) (rest : List Byte) :
    decodeWindow T (p.byte :: 0x09 :: rest) =
      .ok (recordOf p.ctx 0x09 { name := T.idx09Name, imm := 0, idxrel := false } none .none) := by
  rw [decodeWindow_idx T p rfl, entryFor_some (p.table_ctx.symm ▸ T.lookup_idx09), ok_bind]
  exact formIdx_append (imm := .none) rfl rest p T.lookup_idx09

/-! ### What a meaning answers -/

/-- An instruction whose form gives a record gives it and advances the cursor by its length (R37). -/
theorem exec_of_record {s : State} {i : Instr} {r : DecodedInstruction} (hT : s.params.optable.wf = true)
    (h : responseOf s.params.optable i = .ok r) : exec i s = .next (Claims.afterRecord s r) := by
  rw [exec_eq, consumerDecode_of_wf hT, h, finishDecode_ok]

/-- An instruction whose form gives an error gives it, and the Consumer's policy applies (R204; log 3). -/
theorem exec_of_error {s : State} {i : Instr} {e : DecodeError} (hT : s.params.optable.wf = true)
    (h : responseOf s.params.optable i = .error e) : exec i s = .next (Claims.afterError s e) := by
  rw [exec_eq, consumerDecode_of_wf hT, h, finishDecode_error]

/-- An instruction whose form gives a record for its bytes, whatever follows them, gives that record. -/
theorem exec_of_form {s : State} {i : Instr} {r : DecodedInstruction}
    (form : List Byte → Except DecodeError DecodedInstruction) (hT : s.params.optable.wf = true)
    (hresponse : responseOf s.params.optable i = form (encode i))
    (hform : ∀ rest, form (encode i ++ rest) = .ok r) : exec i s = .next (Claims.afterRecord s r) :=
  exec_of_record hT (by simpa [hresponse] using hform [])

end Sys2Proof.Machine

namespace Sys2Proof.Decoder

open Sys2Proof.Machine

/-- Settles O5: the run from each stage is the rest of the form that the window spells. -/
theorem stagesAgreeWithForms : Obligations.StagesAgreeWithForms := by
  unfold Obligations.StagesAgreeWithForms
  intro T w hT
  exact decodeWindow_eq_formDecode hT w

/-- Settles O7: every transition lowers the bound of those left, which is five at `Prefix`. -/
theorem decodeEndsWithinFiveTransitions : Obligations.DecodeEndsWithinFiveTransitions := by
  unfold Obligations.DecodeEndsWithinFiveTransitions
  intro T w
  exact Stage.ended_of_transitionsLeft_eq_zero (Nat.le_zero.1 (Stage.transitionsLeft_run_le T w 5 .start))

/-- Settles O8: a window of fewer than four bytes is its own first four, and four bytes settle a decode. -/
theorem decodeReadsAtMostFourBytes : Obligations.DecodeReadsAtMostFourBytes := by
  unfold Obligations.DecodeReadsAtMostFourBytes
  intro T w hT
  match w with
  | a :: b :: c :: d :: rest =>
    obtain ⟨x, hx, hbounds⟩ := settled_decodeWindow hT a b c d
    exact ⟨(hx rest).trans (hx []).symm, fun _ p q n => (hx rest).trans_ne (hbounds p q n)⟩
  | [] | [_] | [_, _] | [_, _, _] => exact ⟨rfl, by simp⟩

/-- Settles O15, by whether the opcode byte has an entry. -/
theorem formMainRule : Obligations.FormMainRule := by
  unfold Obligations.FormMainRule
  intro T b rest hb
  rw [decodeWindow_main T hb]
  cases he : T.lookup .main b with
  | none => exact opcodeForm_of_none none rfl he
  | some e => exact opcodeForm_of_some none [] rest he

/-- Settles O16, in each of the two tables by whether the opcode byte has an entry. -/
theorem formCbAndEdRule : Obligations.FormCbAndEdRule := by
  unfold Obligations.FormCbAndEdRule
  intro T b rest
  rw [decodeWindow_cb, decodeWindow_ed, decodeWindow_cb, decodeWindow_ed]
  refine ⟨rfl, rfl, ?_, ?_⟩
  · cases he : T.lookup .cb b with
    | none => exact opcodeForm_of_none none (byteAt_eq_ok_iff.2 rfl) he
    | some e => exact opcodeForm_of_some none [0xCB] rest he
  · cases he : T.lookup .ed b with
    | none => exact opcodeForm_of_none none (byteAt_eq_ok_iff.2 rfl) he
    | some e => exact opcodeForm_of_some none [0xED] rest he

/-- Settles O17, by whether the opcode byte has an entry, whether that is index-relative, and whether a displacement
follows. -/
theorem formIndexRule : Obligations.FormIndexRule := by
  unfold Obligations.FormIndexRule
  intro T p b rest
  refine ⟨decodeWindow_singleton_idx T p, fun hb => ?_⟩
  rw [decodeWindow_idx T p hb]
  cases he : T.lookup .idx b with
  | none => rw [entryFor_none (p.table_ctx.symm ▸ he), error_bind]
  | some e =>
    rw [entryFor_some (p.table_ctx.symm ▸ he), ok_bind]
    obtain ⟨name, imm, idxrel⟩ := e
    cases idxrel with
    | false => exact opcodeForm_of_some none [p.byte] rest (p.table_ctx.symm ▸ he)
    | true =>
      cases rest with
      | nil => exact formIdxD_short p he
      | cons d rest => exact formIdxD_of_some p rest he

/-- Settles O18: the two reads before the lookup give the bounds errors. -/
theorem formDoublePrefixRule : Obligations.FormDoublePrefixRule := by
  unfold Obligations.FormDoublePrefixRule
  intro T p d b rest hT
  rw [decodeWindow_idxCb hT, decodeWindow_idxCb hT, decodeWindow_idxCb hT]
  refine ⟨rfl, rfl, ?_⟩
  cases he : T.lookup .idxcb b with
  | none => exact formIdxCb_of_none p rest he
  | some e =>
    rw [formIdxCb_append 0xCB d rest he]
    cases p <;> rfl

/-- Settles O19: the instruction's bytes are its form's operands in place. -/
theorem unprefixedInstructionCompletes : Obligations.UnprefixedInstructionCompletes := by
  unfold Obligations.UnprefixedInstructionCompletes
  intro s op imm e hT he hk
  exact exec_of_form (formMain _) hT rfl fun rest => formMain_append hk rest he

/-- Settles O20: the instruction's bytes are its form's operands in place, behind `CB` or `ED`. -/
theorem cbAndEdInstructionsComplete : Obligations.CbAndEdInstructionsComplete := by
  unfold Obligations.CbAndEdInstructionsComplete
  intro s op imm e hT hk
  exact ⟨fun he => exec_of_form (formCb _) hT rfl fun rest => formCb_append hk rest he,
    fun he => exec_of_form (formEd _) hT rfl fun rest => formEd_append hk rest he⟩

/-- Settles O21: the instruction's bytes are its form's operands in place, the displacement before the immediate. -/
theorem indexInstructionsComplete : Obligations.IndexInstructionsComplete := by
  unfold Obligations.IndexInstructionsComplete
  intro s op d imm e hT he hk
  refine ⟨fun _ => ⟨?_, ?_⟩, fun _ => ⟨?_, ?_⟩⟩
  · exact exec_of_form (formIdx _ .dd) hT rfl fun rest => formIdx_append hk rest .dd he
  · exact exec_of_form (formIdx _ .fd) hT rfl fun rest => formIdx_append hk rest .fd he
  · exact exec_of_form (formIdxD _ .dd) hT rfl fun rest => formIdxD_append (p := .dd) d rest he hk
  · exact exec_of_form (formIdxD _ .fd) hT rfl fun rest => formIdxD_append (p := .fd) d rest he hk

/-- Settles O22: the instruction's bytes are its form's operands in place, the displacement before the opcode. -/
theorem doublePrefixInstructionsComplete : Obligations.DoublePrefixInstructionsComplete := by
  unfold Obligations.DoublePrefixInstructionsComplete
  intro s d op e hT he
  exact ⟨exec_of_form (formIdxCb _ .dd) hT rfl fun rest => formIdxCb_append (p := .dd) 0xCB d rest he,
    exec_of_form (formIdxCb _ .fd) hT rfl fun rest => formIdxCb_append (p := .fd) 0xCB d rest he⟩

/-- Settles O25: in each form the lookup comes before the operands behind the opcode. -/
theorem undefinedOpcodeAnswersItsError : Obligations.UndefinedOpcodeAnswersItsError := by
  unfold Obligations.UndefinedOpcodeAnswersItsError
  intro s op d imm hT
  refine ⟨fun h => ?_, fun h => ?_, fun h => ?_, fun h => ⟨?_, ?_, ?_, ?_⟩, fun h => ⟨?_, ?_⟩⟩
  · exact exec_of_error hT (opcodeForm_of_none none rfl h)
  · exact exec_of_error hT (opcodeForm_of_none none rfl h)
  · exact exec_of_error hT (opcodeForm_of_none none rfl h)
  · exact exec_of_error hT (opcodeForm_of_none none rfl h)
  · exact exec_of_error hT (opcodeForm_of_none none rfl h)
  · exact exec_of_error hT (formIdxD_of_none .dd _ h)
  · exact exec_of_error hT (formIdxD_of_none .fd _ h)
  · exact exec_of_error hT (formIdxCb_of_none .dd [] h)
  · exact exec_of_error hT (formIdxCb_of_none .fd [] h)

/-- Settles O3: the three entries the source fixes have no immediate, so the form rules give their records whatever
follows. -/
theorem fixedInstructionsDecode : Obligations.FixedInstructionsDecode := by
  unfold Obligations.FixedInstructionsDecode
  intro T rest
  have hnop := (decodeWindow_main T rfl rest).trans (formMain_append (imm := .none) rfl rest T.lookup_nop)
  have hcb00 := (decodeWindow_cb T (0x00 :: rest)).trans (formCb_append (imm := .none) rfl rest T.lookup_cb00)
  have hdd09 := decodeWindow_idx09 T .dd rest
  have hfd09 := decodeWindow_idx09 T .fd rest
  exact ⟨hnop, hcb00, hdd09, hfd09, rfl, rfl, rfl, decode_of_record hnop, decode_of_record hcb00,
    decode_of_record hdd09⟩

/-- Settles O23: each constructor answers the record its rule gives, and its form completes the same record, since the
three entries the source fixes have no immediate. -/
theorem fixedInstructionsComplete : Obligations.FixedInstructionsComplete := by
  unfold Obligations.FixedInstructionsComplete
  intro s hT
  have hnop := unprefixedInstructionCompletes s 0x00 .none _ hT (OpTable.lookup_nop _) rfl
  have hcb00 := (cbAndEdInstructionsComplete s 0x00 .none _ hT rfl).1 (OpTable.lookup_cb00 _)
  have hdd09 := ((indexInstructionsComplete s 0x09 0x00 .none _ hT (OpTable.lookup_idx09 _) rfl).1 rfl).1
  refine ⟨exec_of_record hT rfl, exec_of_record hT rfl, exec_of_record hT rfl, ?_, ?_, ?_⟩
  · exact (exec_of_record hT rfl).trans hnop.symm
  · exact (exec_of_record hT rfl).trans hcb00.symm
  · exact (exec_of_record hT rfl).trans hdd09.symm

/-- Settles O24: the meaning of an illegal byte after `DD` or `FD` is its error. -/
theorem unknownPrefixCompletes : Obligations.UnknownPrefixCompletes := by
  unfold Obligations.UnknownPrefixCompletes
  intro s p q hT
  exact exec_of_error hT rfl

end Sys2Proof.Decoder
end

section
/-! PROOFS. The decode errors (60_exceptions.md sections 1 and 2): what each form fails with, and on which windows a
decode answers each of its three errors. -/

namespace Sys2Proof

open Claims

/-! ### Computations and reads that fail -/

/-- A sequence fails exactly where its first part does, or its second part after the first. -/
theorem bind_eq_error_iff {ε α β : Type} {x : Except ε α} {f : α → Except ε β} {e : ε} :
    x >>= f = .error e ↔ x = .error e ∨ ∃ a, x = .ok a ∧ f a = .error e := by
  cases x <;> simp

/-- A single-byte read fails exactly beyond the buffer (R162, R169). -/
theorem byteAt_eq_error_iff {w : List Byte} {i : Nat} {e : DecodeError} :
    byteAt w i = .error e ↔ w.length ≤ i ∧ e = .regionOutOfBounds i (i + 1) w.length := by
  by_cases hlen : w.length ≤ i
  · simp [byteAt_short hlen, hlen, eq_comm]
  · simp [byteAt_ok (Nat.lt_of_not_le hlen), hlen]

/-- A displacement read fails exactly beyond the window (R166, R169). -/
theorem dispAt_eq_error_iff {w : List Byte} {i : Nat} {e : DecodeError} :
    dispAt w i = .error e ↔ w.length ≤ i ∧ e = .regionOutOfBounds i (i + 1) w.length := by
  by_cases hlen : w.length ≤ i
  · simp [dispAt_short hlen, hlen, eq_comm]
  · simp [dispAt_ok (Nat.lt_of_not_le hlen), hlen]

/-- An immediate fails as a whole, exactly where the window ends before its last byte (R167, R169). -/
theorem immAt_eq_error_iff {w : List Byte} {pos : Nat} {k : Fin 3} {e : DecodeError} :
    immAt w pos k = .error e ↔ w.length < pos + k.val ∧ e = .regionOutOfBounds pos (pos + k.val) w.length := by
  by_cases hlen : w.length < pos + k.val
  · simp [immAt_short hlen, hlen, eq_comm]
  · simp [immAt_ok (Nat.le_of_not_lt hlen), hlen]

/-- A lookup for the opcode stage fails exactly where the table has no entry (R165, R203). -/
theorem entryFor_eq_error_iff {T : OpTable} {ctx : Ctx} {b : Byte} {e : DecodeError} :
    entryFor T ctx b = .error e ↔ T.lookup ctx.table b = none ∧ e = .unknownOpcode b ctx := by
  unfold entryFor
  cases T.lookup ctx.table b <;> simp [eq_comm]

/-! ### The windows, by the form their first bytes select (R74, R75, R79) -/

/-- The windows by what they begin with: nothing, an opcode byte, `CB`, `ED`, or one of `DD` and `FD`, which stands
alone or is followed by `CB`, by a byte that is illegal there, or by an opcode byte. Every window is of one of these
(`windowForm`), and each has its own rule of decoding. -/
inductive WindowForm : List Byte → Prop where
  | empty : WindowForm []
  | main {b : Byte} (hb : isPrefixByte b = false) (rest : List Byte) : WindowForm (b :: rest)
  | cb (rest : List Byte) : WindowForm (0xCB :: rest)
  | ed (rest : List Byte) : WindowForm (0xED :: rest)
  | idxAlone (p : IdxPrefix) : WindowForm [p.byte]
  | idxCb (p : IdxPrefix) (rest : List Byte) : WindowForm (p.byte :: 0xCB :: rest)
  | badPrefix (p : IdxPrefix) {q : Byte} (hq : isBadSecondPrefix q = true) (rest : List Byte) :
      WindowForm (p.byte :: q :: rest)
  | idx (p : IdxPrefix) {op : Byte} (hop : isPrefixByte op = false) (rest : List Byte) :
      WindowForm (p.byte :: op :: rest)

/-- Behind `DD` or `FD` the second byte tells the form. -/
theorem windowForm_idxPrefix (p : IdxPrefix) (w : List Byte) : WindowForm (p.byte :: w) := by
  cases w with
  | nil => exact .idxAlone p
  | cons b w =>
    by_cases hcb : b = 0xCB
    · subst hcb
      exact .idxCb p w
    cases hbad : isBadSecondPrefix b with
    | true => exact .badPrefix p hbad w
    | false => exact .idx p (isPrefixByte_eq_false hcb hbad) w

/-- Every window has a form. -/
theorem windowForm (w : List Byte) : WindowForm w := by
  cases w with
  | nil => exact .empty
  | cons b w =>
    by_cases hcb : b = 0xCB
    · subst hcb
      exact .cb w
    by_cases hed : b = 0xED
    · subst hed
      exact .ed w
    by_cases hdd : b = 0xDD
    · subst hdd
      exact windowForm_idxPrefix .dd w
    by_cases hfd : b = 0xFD
    · subst hfd
      exact windowForm_idxPrefix .fd w
    · exact .main (by simp_all [isPrefixByte]) w

/-- The empty window lacks byte 0 (R163). -/
@[simp] theorem decodeWindow_nil (T : OpTable) : decodeWindow T [] = .error (.regionOutOfBounds 0 1 0) := rfl

/-- `DD CB` and `FD CB` under every OPTABLE, also one whose IDXCB entries have immediates: the displacement, then the
opcode byte and what its entry asks for (R164 to R166). -/
theorem decodeWindow_idxCb_bind (T : OpTable) (p : IdxPrefix) (rest : List Byte) :
    decodeWindow T (p.byte :: 0xCB :: rest) = dispAt (p.byte :: 0xCB :: rest) 2 >>= fun d =>
      opcodeForm T p.ctxCB (some d) 3 (p.byte :: 0xCB :: rest) := by
  have hread : byteAt (p.byte :: 0xCB :: rest) 1 = .ok 0xCB := byteAt_eq_ok_iff.2 rfl
  have hnext : Stage.next T (p.byte :: 0xCB :: rest) (.prefix2 p) = .disp p.ctxCB 2 none := by
    simp only [Stage.next, Stage.orFail, hread, if_true]
  have hctx : ¬ (p.ctxCB = .dd ∨ p.ctxCB = .fd) := by cases p <;> simp [IdxPrefix.ctxCB]
  rw [decodeWindow_of_next (Stage.next_start_idx T p _), Stage.run, hnext, Stage.run, Stage.next,
    Stage.response_run_orFail]
  exact congrArg _ (funext fun d => Stage.response_run_opcode T _ 0 _ _ hctx)

/-! ### The errors of a form -/

/-- A form fails from its opcode byte on in one of three ways: the byte is missing, it has no entry, or the immediate is
cut off. -/
theorem opcodeForm_error {T : OpTable} {ctx : Ctx} {d : Option Int} {n : Nat} {w : List Byte} {e : DecodeError}
    (h : opcodeForm T ctx d n w = .error e) :
    (w.length ≤ n ∧ e = .regionOutOfBounds n (n + 1) w.length)
    ∨ (∃ op, w[n]? = some op ∧ T.lookup ctx.table op = none ∧ e = .unknownOpcode op ctx)
    ∨ (∃ k : Fin 3, n < w.length ∧ w.length < n + 1 + k.val
        ∧ e = .regionOutOfBounds (n + 1) (n + 1 + k.val) w.length) := by
  rcases bind_eq_error_iff.1 h with h | ⟨op, hop, h⟩
  · exact .inl (byteAt_eq_error_iff.1 h)
  have hw : w[n]? = some op := byteAt_eq_ok_iff.1 hop
  rcases bind_eq_error_iff.1 h with h | ⟨entry, _, h⟩
  · exact .inr (.inl ⟨op, hw, entryFor_eq_error_iff.1 h⟩)
  rcases bind_eq_error_iff.1 h with h | ⟨_, _, h⟩
  · exact .inr (.inr ⟨entry.imm, (List.getElem?_eq_some_iff.1 hw).1, immAt_eq_error_iff.1 h⟩)
  · cases h

/-- F-IDXD whose opcode byte has an entry fails for a missing displacement or a cut-off immediate (R175). -/
theorem formIdxD_error {T : OpTable} {p : IdxPrefix} {a op : Byte} {rest : List Byte} {entry : Entry}
    {e : DecodeError} (he : T.lookup .idx op = some entry) (h : formIdxD T p (a :: op :: rest) = .error e) :
    (rest = [] ∧ e = .regionOutOfBounds 2 3 2)
    ∨ (rest ≠ [] ∧ rest.length < 1 + entry.imm.val
        ∧ e = .regionOutOfBounds 3 (3 + entry.imm.val) (rest.length + 2)) := by
  cases rest with
  | nil =>
    rw [formIdxD_short p he] at h
    cases h
    exact .inl ⟨rfl, rfl⟩
  | cons d rest =>
    rw [formIdxD_of_some p rest he, immediateAnswer] at h
    split at h
    · cases h
      exact .inr ⟨by simp, by simp only [List.length_cons]; omega, rfl⟩
    · cases h

/-! ### `UnknownPrefix` (R202) -/

theorem isBadSecondPrefix_iff {b : Byte} : isBadSecondPrefix b = true ↔ b = 0xDD ∨ b = 0xED ∨ b = 0xFD := by
  simp [isBadSecondPrefix, or_assoc]

/-! ### `UnknownOpcode` (R203) -/

/-- A form fails with `UnknownOpcode` exactly at its opcode byte, in its context, without an entry. -/
theorem opcodeForm_unknownOpcode_iff {T : OpTable} {c ctx : Ctx} {d : Option Int} {n : Nat} {w : List Byte}
    {b : Byte} :
    opcodeForm T c d n w = .error (.unknownOpcode b ctx) ↔
      w[n]?.map (Prod.mk c) = some (ctx, b) ∧ T.lookup ctx.table b = none := by
  constructor
  · intro h
    rcases opcodeForm_error h with ⟨_, he⟩ | ⟨op, hop, hnone, he⟩ | ⟨_, _, _, he⟩
    · cases he
    · cases he
      exact ⟨by rw [hop]; rfl, hnone⟩
    · cases he
  · rintro ⟨hop, hnone⟩
    obtain ⟨op, hw, heq⟩ := Option.map_eq_some_iff.1 hop
    cases heq
    exact opcodeForm_of_none d (byteAt_eq_ok_iff.2 hw) hnone

/-- Behind `DD CB` and `FD CB` the opcode byte is the one after the displacement, and only its lookup fails with
`UnknownOpcode`. -/
theorem decodeWindow_idxCb_unknownOpcode_iff {T : OpTable} {p : IdxPrefix} {rest : List Byte} {b : Byte}
    {ctx : Ctx} :
    decodeWindow T (p.byte :: 0xCB :: rest) = .error (.unknownOpcode b ctx) ↔
      rest[1]?.map (Prod.mk p.ctxCB) = some (ctx, b) ∧ T.lookup ctx.table b = none := by
  rw [decodeWindow_idxCb_bind]
  cases rest with
  | nil => simp [dispAt_short]
  | cons d rest =>
    rw [dispAt_ok (by simp), ok_bind, opcodeForm_unknownOpcode_iff]
    rfl

/-- Behind `DD` or `FD` an opcode byte is answered with `UnknownOpcode` exactly where IDX has no entry there. -/
theorem decodeWindow_idx_unknownOpcode_iff {T : OpTable} {p : IdxPrefix} {op : Byte} {rest : List Byte} {b : Byte}
    {ctx : Ctx} (hop : isPrefixByte op = false) :
    decodeWindow T (p.byte :: op :: rest) = .error (.unknownOpcode b ctx) ↔
      some (p.ctx, op) = some (ctx, b) ∧ T.lookup ctx.table b = none := by
  rw [decodeWindow_idx T p hop]
  cases he : T.lookup .idx op with
  | none =>
    have hnone : T.lookup p.ctx.table op = none := p.table_ctx.symm ▸ he
    rw [entryFor_none hnone, error_bind]
    constructor
    · intro h
      cases h
      exact ⟨rfl, hnone⟩
    · rintro ⟨heq, -⟩
      cases heq
      rfl
  | some entry =>
    have hsome : T.lookup p.ctx.table op = some entry := p.table_ctx.symm ▸ he
    rw [entryFor_some hsome, ok_bind]
    constructor
    · intro h
      split at h
      · rcases formIdxD_error he h with ⟨_, herr⟩ | ⟨_, _, herr⟩ <;> cases herr
      · exact opcodeForm_unknownOpcode_iff.1 h
    · rintro ⟨heq, hnone⟩
      cases heq
      rw [hsome] at hnone
      cases hnone

/-! ### The opcode byte of a window (R71, R72, R75) -/

theorem opcodeOf_nil : opcodeOf [] = none := rfl

theorem opcodeOf_main {b : Byte} (hb : isPrefixByte b = false) (rest : List Byte) :
    opcodeOf (b :: rest) = some (.none, b) := by
  simp_all [opcodeOf, isPrefixByte]

theorem opcodeOf_cb (rest : List Byte) : opcodeOf (0xCB :: rest) = rest[0]?.map (Prod.mk .cb) := by
  rw [← List.head?_eq_getElem?]
  rfl

theorem opcodeOf_ed (rest : List Byte) : opcodeOf (0xED :: rest) = rest[0]?.map (Prod.mk .ed) := by
  rw [← List.head?_eq_getElem?]
  rfl

theorem opcodeOf_idxAlone (p : IdxPrefix) : opcodeOf [p.byte] = none := by cases p <;> rfl

theorem opcodeOf_idxCb (p : IdxPrefix) (rest : List Byte) :
    opcodeOf (p.byte :: 0xCB :: rest) = rest[1]?.map (Prod.mk p.ctxCB) := by
  cases p <;> rfl

theorem opcodeOf_badPrefix (p : IdxPrefix) {q : Byte} (hq : isBadSecondPrefix q = true) (rest : List Byte) :
    opcodeOf (p.byte :: q :: rest) = none := by
  rcases isBadSecondPrefix_iff.1 hq with rfl | rfl | rfl <;> cases p <;> rfl

theorem opcodeOf_idx (p : IdxPrefix) {op : Byte} (hop : isPrefixByte op = false) (rest : List Byte) :
    opcodeOf (p.byte :: op :: rest) = some (p.ctx, op) := by
  cases p <;> simp_all [opcodeOf, isPrefixByte, IdxPrefix.byte, IdxPrefix.ctx]

/-! ### `RegionOutOfBounds` (R201) -/

/-- The range `[a, b)` is not empty, ends within the first four bytes and beyond the window, whose length is `n`. -/
def IsMissingRange (w : List Byte) (a b n : Nat) : Prop := n = w.length ∧ n < b ∧ a < b ∧ b ≤ 4

/-- A form behind at most one prefix byte asks for at most four bytes. -/
theorem isMissingRange_of_opcodeForm {T : OpTable} {ctx : Ctx} {d : Option Int} {i : Nat} {w : List Byte}
    {a b n : Nat} (hi : i ≤ 1) (h : opcodeForm T ctx d i w = .error (.regionOutOfBounds a b n)) :
    IsMissingRange w a b n := by
  rcases opcodeForm_error h with ⟨hlen, he⟩ | ⟨_, _, _, he⟩ | ⟨k, hop, hlen, he⟩
  · cases he
    refine ⟨rfl, ?_, ?_, ?_⟩ <;> omega
  · cases he
  · cases he
    refine ⟨rfl, ?_, ?_, ?_⟩ <;> omega

/-- R82 keeps an index-relative instruction within four bytes. -/
theorem isMissingRange_of_idx {T : OpTable} (hT : T.wf = true) {p : IdxPrefix} {op : Byte} {rest : List Byte}
    {a b n : Nat} (hop : isPrefixByte op = false)
    (h : decodeWindow T (p.byte :: op :: rest) = .error (.regionOutOfBounds a b n)) :
    IsMissingRange (p.byte :: op :: rest) a b n := by
  rw [decodeWindow_idx T p hop] at h
  rcases bind_eq_error_iff.1 h with h | ⟨entry, hentry, h⟩
  · cases (entryFor_eq_error_iff.1 h).2
  have he : T.lookup .idx op = some entry := p.table_ctx ▸ entryFor_eq_ok_iff.1 hentry
  split at h
  next hx =>
    have himm := OpTable.imm_le_one_of_idxrel hT he hx
    rcases formIdxD_error he h with ⟨rfl, herr⟩ | ⟨hne, hlen, herr⟩
    · cases herr
      exact ⟨rfl, by decide, by decide, by decide⟩
    · have hpos := List.length_pos_iff.2 hne
      cases herr
      refine ⟨rfl, ?_, ?_, ?_⟩ <;> omega
  next => exact isMissingRange_of_opcodeForm (Nat.le_refl 1) h

/-- Behind `DD CB` and `FD CB` the displacement and the opcode byte are the only bytes that can be missing, since R82
leaves no immediate (R176). -/
theorem isMissingRange_of_idxCb {T : OpTable} (hT : T.wf = true) {p : IdxPrefix} {rest : List Byte}
    {a b n : Nat} (h : decodeWindow T (p.byte :: 0xCB :: rest) = .error (.regionOutOfBounds a b n)) :
    IsMissingRange (p.byte :: 0xCB :: rest) a b n := by
  rw [decodeWindow_idxCb hT] at h
  rcases bind_eq_error_iff.1 h with h | ⟨_, _, h⟩
  · obtain ⟨hlen, herr⟩ := dispAt_eq_error_iff.1 h
    cases herr
    exact ⟨rfl, Nat.lt_succ_of_le hlen, by decide, by decide⟩
  rcases bind_eq_error_iff.1 h with h | ⟨_, _, h⟩
  · obtain ⟨hlen, herr⟩ := byteAt_eq_error_iff.1 h
    cases herr
    exact ⟨rfl, Nat.lt_succ_of_le hlen, by decide, by decide⟩
  rcases bind_eq_error_iff.1 h with h | ⟨_, _, h⟩
  · cases (entryFor_eq_error_iff.1 h).2
  · cases h

/-- Under an admissible OPTABLE a decode's bounds error names a range that the window does not hold. -/
theorem isMissingRange_of_decodeWindow {T : OpTable} (hT : T.wf = true) {w : List Byte} {a b n : Nat}
    (h : decodeWindow T w = .error (.regionOutOfBounds a b n)) : IsMissingRange w a b n := by
  cases windowForm w with
  | empty =>
    rw [decodeWindow_nil] at h
    cases h
    exact ⟨rfl, by decide, by decide, by decide⟩
  | main hb rest => exact isMissingRange_of_opcodeForm (Nat.zero_le 1) (decodeWindow_main T hb rest ▸ h)
  | cb rest => exact isMissingRange_of_opcodeForm (Nat.le_refl 1) (decodeWindow_cb T rest ▸ h)
  | ed rest => exact isMissingRange_of_opcodeForm (Nat.le_refl 1) (decodeWindow_ed T rest ▸ h)
  | idxAlone p =>
    rw [decodeWindow_singleton_idx] at h
    cases h
    exact ⟨rfl, by decide, by decide, by decide⟩
  | idxCb p rest => exact isMissingRange_of_idxCb hT h
  | badPrefix p hq rest =>
    rw [decodeWindow_badPrefix T p hq] at h
    cases h
  | idx p hop rest => exact isMissingRange_of_idx hT hop h

end Sys2Proof

namespace Sys2Proof.Exceptions

/-- Settles O11: a form looks its opcode byte up before it reads what follows, `Prefix2` fails before the lookup, and
the reads of the prefix bytes come first. -/
theorem decodeErrorPriority : Obligations.DecodeErrorPriority := by
  unfold Obligations.DecodeErrorPriority
  intro T p b d rest
  refine ⟨fun hb h => ?_, fun h => ?_, fun h => ?_, fun hb h => ?_, fun hb => ?_, decodeWindow_nil T, rfl, rfl,
    decodeWindow_singleton_idx T p, ?_⟩
  · rw [decodeWindow_main T hb]
    exact opcodeForm_of_none none rfl h
  · rw [decodeWindow_cb]
    exact opcodeForm_of_none none (byteAt_eq_ok_iff.2 rfl) h
  · rw [decodeWindow_ed]
    exact opcodeForm_of_none none (byteAt_eq_ok_iff.2 rfl) h
  · rw [decodeWindow_idx T p hb, entryFor_none (p.table_ctx.symm ▸ h), error_bind]
  · exact decodeWindow_badPrefix T p (isBadSecondPrefix_iff.2 hb) rest
  · rw [decodeWindow_idxCb_bind]
    rfl

/-- Settles O12: only `Prefix2` fails with `UnknownPrefix`, and what it read are the window's first two bytes. -/
theorem unknownPrefixExactly : Obligations.UnknownPrefixExactly := by
  unfold Obligations.UnknownPrefixExactly
  intro T w b
  constructor
  · intro h
    obtain ⟨p, rest, hw, hbad⟩ := beginsWithBadPrefix_of_decodeWindow h
    exact ⟨p, rest, hw, isBadSecondPrefix_iff.1 hbad⟩
  · rintro ⟨p, rest, rfl, hb⟩
    exact decodeWindow_badPrefix T p (isBadSecondPrefix_iff.2 hb) rest

/-- Settles O13, by the window's form: each reads its opcode byte where `opcodeOf` finds it, and fails with
`UnknownOpcode` at the lookup only. -/
theorem unknownOpcodeExactly : Obligations.UnknownOpcodeExactly := by
  unfold Obligations.UnknownOpcodeExactly
  intro T w b ctx
  cases windowForm w with
  | empty => simp [opcodeOf_nil]
  | main hb rest =>
    rw [decodeWindow_main T hb, formMain_eq, opcodeForm_unknownOpcode_iff, opcodeOf_main hb]
    rfl
  | cb rest =>
    rw [decodeWindow_cb, formCb_eq, opcodeForm_unknownOpcode_iff, opcodeOf_cb, List.getElem?_cons_succ]
  | ed rest =>
    rw [decodeWindow_ed, formEd_eq, opcodeForm_unknownOpcode_iff, opcodeOf_ed, List.getElem?_cons_succ]
  | idxAlone p => simp [decodeWindow_singleton_idx, opcodeOf_idxAlone]
  | idxCb p rest => rw [decodeWindow_idxCb_unknownOpcode_iff, opcodeOf_idxCb]
  | badPrefix p hq rest => simp [decodeWindow_badPrefix T p hq, opcodeOf_badPrefix p hq]
  | idx p hop rest => rw [decodeWindow_idx_unknownOpcode_iff hop, opcodeOf_idx p hop]

/-- Settles O14, by the window's form: a read fails where the window ends, and R80 and R82 bound how far it reads. -/
theorem boundsErrorNamesTheMissingRange : Obligations.BoundsErrorNamesTheMissingRange := by
  unfold Obligations.BoundsErrorNamesTheMissingRange
  intro T w a b n hT h
  exact isMissingRange_of_decodeWindow hT h

end Sys2Proof.Exceptions
end

section
/-! PROOFS. The checksum error (60_exceptions.md section 1): what the two constructors make of the two checksum
bytes. -/

namespace Sys2Proof

/-- The six steps' two checksum bytes, and the verdict the header carries of them (R129, R130). -/
theorem parseHeader_checksums {C : ComponentTable} {buf : List Byte} {p : HeaderParse}
    (h : parseHeader C buf = .ok p) :
    computedChecksum buf = .ok p.computed ∧ storedChecksum buf = .ok p.stored
      ∧ (p.header.headerChecksumOk = true ↔ p.computed = p.stored) := by
  obtain ⟨_, _, h⟩ := bind_eq_ok_iff.1 h
  obtain ⟨_, _, h⟩ := bind_eq_ok_iff.1 h
  obtain ⟨_, _, h⟩ := bind_eq_ok_iff.1 h
  obtain ⟨_, _, h⟩ := bind_eq_ok_iff.1 h
  obtain ⟨_, _, h⟩ := bind_eq_ok_iff.1 h
  obtain ⟨_, _, h⟩ := bind_eq_ok_iff.1 h
  obtain ⟨computed, hcomputed, h⟩ := bind_eq_ok_iff.1 h
  obtain ⟨stored, hstored, h⟩ := bind_eq_ok_iff.1 h
  cases h
  exact ⟨hcomputed, hstored, by simp [checksumVerdict]⟩

/-- The lenient constructor returns what the six steps find (R131). -/
theorem constructLenient_of_parse {C : ComponentTable} {buf : List Byte} {p : HeaderParse}
    (h : parseHeader C buf = .ok p) : constructLenient C buf = .ok p.header := by
  rw [constructLenient, h]
  rfl

/-- The strict constructor compares the two bytes the six steps find (R132). -/
theorem constructStrict_of_parse {C : ComponentTable} {buf : List Byte} {p : HeaderParse}
    (h : parseHeader C buf = .ok p) :
    constructStrict C buf =
      if p.computed = p.stored then .ok p.header else .error (.badHeaderChecksum p.computed p.stored) := by
  obtain ⟨_, _, hok⟩ := parseHeader_checksums h
  rw [constructStrict, h, ok_bind]
  simp only [hok]
  rfl

/-- The lenient constructor never fails with `BadHeaderChecksum` (R131). -/
theorem constructLenient_ne_badHeaderChecksum (C : ComponentTable) (buf : List Byte) (c k : Byte) :
    constructLenient C buf ≠ .error (.badHeaderChecksum c k) := by
  rw [show constructLenient C buf = _ from constructHeader_eq_headerResult .lenient C buf]
  unfold Claims.headerResult
  repeat' split
  all_goals simp

end Sys2Proof

namespace Sys2Proof.Exceptions

/-- Settles O37: both constructors run the six steps, whose own errors are others, and the strict one turns a header
with a false verdict into the error of its two bytes. -/
theorem strictIsLenientWithGoodChecksum : Obligations.StrictIsLenientWithGoodChecksum := by
  unfold Obligations.StrictIsLenientWithGoodChecksum
  intro C buf
  cases hparse : parseHeader C buf with
  | error e =>
    have hnever := constructLenient_ne_badHeaderChecksum C buf
    simp only [constructLenient, constructStrict, hparse, error_bind] at hnever ⊢
    exact ⟨by simp, hnever, fun c k => by simpa using hnever c k⟩
  | ok p =>
    obtain ⟨hcomputed, hstored, hok⟩ := parseHeader_checksums hparse
    rw [constructLenient_of_parse hparse, constructStrict_of_parse hparse, hcomputed, hstored]
    by_cases hsame : p.computed = p.stored
    · rw [if_pos hsame]
      refine ⟨fun h => ⟨?_, And.left⟩, by simp, fun c k => ⟨by simp, ?_⟩⟩
      · rintro ⟨⟩
        exact ⟨rfl, hok.2 hsame⟩
      · rintro ⟨-, hne, ⟨⟩, ⟨⟩⟩
        exact absurd hsame hne
    · rw [if_neg hsame]
      refine ⟨fun h => ⟨by simp, ?_⟩, by simp, fun c k => ⟨?_, ?_⟩⟩
      · rintro ⟨⟨⟩, htrue⟩
        exact absurd (hok.1 htrue) hsame
      · rintro ⟨⟩
        exact ⟨⟨p.header, rfl⟩, hsame, rfl, rfl⟩
      · rintro ⟨-, -, ⟨⟩, ⟨⟩⟩
        rfl

end Sys2Proof.Exceptions
end

section
/-! PROOFS. Model faults and responses that are errors (60_exceptions.md section 1): where a step faults, and what an
error leaves as it was. -/

namespace Sys2Proof.Machine

/-! ### The model faults (R210, R233) -/

/-- The outcome is the fault where one is given, and a next state where none is. -/
def FaultsExactly (f : Option Fault) (o : Host.Outcome State Fault Refusal) : Prop :=
  match f with
  | some f => o = .fault f
  | none => ∃ t, o = .next t

/-- A decode faults exactly under an OPTABLE that breaks R81 to R83. -/
theorem consumerDecode_faultsExactly (s : State) (resp : Except DecodeError DecodedInstruction) :
    FaultsExactly (if s.params.optable.wf then none else some .badTable) (s.consumerDecode resp) := by
  cases hT : s.params.optable.wf with
  | true => exact ⟨_, consumerDecode_of_wf hT resp⟩
  | false => simp [FaultsExactly, State.consumerDecode, hT]

/-- A query faults exactly without a header (R140). -/
theorem serveQuery_faultsExactly (s : State) (answer : CartridgeHeader → Response) :
    FaultsExactly (if s.hdr.isNone then some .noHeader else none) (serveQuery answer s) := by
  cases hh : s.hdr with
  | none => exact serveQuery_of_none hh answer
  | some h => exact ⟨_, serveQuery_of_some hh answer⟩

/-- LOAD faults exactly over a ROM Store that is written (R22; log 7). -/
theorem serveLoad_faultsExactly (s : State) (source : Option (List Byte)) :
    FaultsExactly (if s.rom.isSome then some .reloaded else none) (serveLoad source s) := by
  unfold serveLoad
  cases s.rom with
  | some m => rfl
  | none => cases source <;> exact ⟨_, rfl⟩

/-- CONSTRUCT faults exactly without a ROM (R120). -/
theorem serveConstruct_faultsExactly (s : State) (m : Mode) :
    FaultsExactly (if s.rom.isNone then some .noRom else none) (serveConstruct m s) := by
  unfold serveConstruct
  cases s.rom with
  | none => rfl
  | some mem =>
    dsimp only
    cases constructHeader m s.params.components (Memory.bytes mem) <;> exact ⟨_, rfl⟩

/-- DECODE faults exactly under an OPTABLE that breaks R81 to R83. -/
theorem serveDecode_faultsExactly (s : State) (w : List Byte) :
    FaultsExactly (if s.params.optable.wf then none else some .badTable) (serve (.decode w) s) := by
  cases hT : s.params.optable.wf with
  | true => exact ⟨_, serveDecode_eq hT w⟩
  | false => simp [FaultsExactly, serve, serveDecode, hT]

/-- A request faults exactly where it breaks the caller's duty. -/
theorem serve_faultsExactly (s : State) (r : Request) : FaultsExactly (r.faultIn s) (serve r s) := by
  cases r with
  | load source => exact serveLoad_faultsExactly s source
  | construct m => exact serveConstruct_faultsExactly s m
  | decode w => exact serveDecode_faultsExactly s w
  | consume code pc policy => exact ⟨_, rfl⟩
  | title | components | hasComponent | isColorMode | isSuperMode | romCapacity | ramCapacity | headerChecksumOk =>
    exact serveQuery_faultsExactly s _

/-- The request taken from the queue does not bear on what it faults with. -/
theorem faultIn_setPending (s : State) (rs : List Request) (r : Request) :
    r.faultIn (s.setPending rs) = r.faultIn s := by
  cases r <;> rfl

/-- The Consumer has no window exactly where its code is the ROM Store and no ROM is loaded. -/
theorem fetchWindow_eq_none_iff {s : State} : s.fetchWindow = none ↔ s.consumer.code = .rom ∧ s.rom = none := by
  unfold State.fetchWindow State.codeBytes
  cases s.consumer.code <;> simp

/-- Where no request waits and the Consumer runs without a window, the fault is `noRom` (log 8). -/
theorem faultNext_of_no_window {s : State} (hp : s.pending = []) (hr : s.consumer.running = true)
    (hw : s.fetchWindow = none) : s.faultNext = some .noRom := by
  obtain ⟨hcode, hrom⟩ := fetchWindow_eq_none_iff.1 hw
  simp [State.faultNext, hp, hr, hcode, hrom]

/-- Where no request waits and the Consumer runs over a window, the fault is its decode's (log 16). -/
theorem faultNext_of_window {s : State} {w : List Byte} (hp : s.pending = []) (hr : s.consumer.running = true)
    (hw : s.fetchWindow = some w) :
    s.faultNext = if s.params.optable.wf then none else some .badTable := by
  have hsource : ¬ (s.consumer.code = .rom ∧ s.rom = none) := by
    rw [← fetchWindow_eq_none_iff, hw]
    simp
  simp only [State.faultNext, hp, hr, if_true]
  split
  next hcode hrom => exact absurd ⟨hcode, hrom⟩ hsource
  next => rfl

/-- The Consumer's step faults without a window, and otherwise as its decode does. -/
theorem consumerStep_faultsExactly {s : State} (hp : s.pending = []) (hr : s.consumer.running = true) :
    FaultsExactly s.faultNext (consumerStep s) := by
  cases hw : s.fetchWindow with
  | none =>
    rw [faultNext_of_no_window hp hr hw]
    simp [FaultsExactly, consumerStep, hw]
  | some w =>
    rw [faultNext_of_window hp hr hw, consumerStep_of_fetchWindow hw]
    exact consumerDecode_faultsExactly s _

/-- A step faults exactly as the caller's duties say. -/
theorem step_faultsExactly (s : State) : FaultsExactly s.faultNext (step s) := by
  cases hp : s.pending with
  | cons r rest =>
    have hfault : s.faultNext = r.faultIn (s.setPending rest) := by
      rw [faultIn_setPending, State.faultNext, hp]
    rw [hfault, step_of_request hp]
    exact serve_faultsExactly _ r
  | nil =>
    cases hr : s.consumer.running with
    | true =>
      rw [step_of_running hp hr]
      exact consumerStep_faultsExactly hp hr
    | false =>
      have hfault : s.faultNext = none := by simp [State.faultNext, hp, hr]
      rw [hfault]
      exact ⟨s, step_of_idle hp hr⟩

/-! ### What an error leaves as it was (R204) -/

/-- A request that is answered with an error writes neither store: LOAD and a construction that write one answer
otherwise. -/
theorem serve_error_keeps_stores {r : Request} {s t : State} {e : DecodeError} (h : serve r s = .next t)
    (ho : t.out = s.out ++ [.err e]) : t.rom = s.rom ∧ t.hdr = s.hdr := by
  rcases serve_next h with
    ⟨_, _, _, rfl⟩ | ⟨_, _, _, _, _, _, rfl⟩ | ⟨_, _, _, rfl⟩ | ⟨_, _, _, _, rfl⟩ | ⟨_, _, rfl⟩
  · simp at ho
  · simp at ho
  · exact ⟨rfl, rfl⟩
  · exact ⟨rfl, rfl⟩
  · exact ⟨rfl, rfl⟩

/-- A step that answers an error writes neither store. -/
theorem step_error_keeps_stores {s t : State} {e : DecodeError} (h : step s = .next t)
    (ho : t.out = s.out ++ [.err e]) : t.rom = s.rom ∧ t.hdr = s.hdr := by
  rcases step_next h with ⟨r, rest, _, hserve⟩ | ⟨_, _, hcons⟩ | ⟨_, _, rfl⟩
  · exact serve_error_keeps_stores (s := s.setPending rest) hserve ho
  · obtain ⟨_, resp, _, _, rfl⟩ := consumerStep_next hcons
    exact ⟨finishDecode_rom s resp, finishDecode_hdr s resp⟩
  · exact ⟨rfl, rfl⟩

end Sys2Proof.Machine

namespace Sys2Proof.Exceptions

open Sys2Proof.Machine

/-- Settles O40, by what each request and the Consumer's decode fault with. -/
theorem stepFaultsExactly : Obligations.StepFaultsExactly := by
  unfold Obligations.StepFaultsExactly
  exact step_faultsExactly

/-- Settles O46: an error is the response of a request that wrote no store, the parameters are never written, and the
stage register holds nothing before and after. -/
theorem errorsChangeNoBlockState : Obligations.ErrorsChangeNoBlockState := by
  unfold Obligations.ErrorsChangeNoBlockState
  intro s t e hst h ho
  obtain ⟨hrom, hhdr⟩ := step_error_keeps_stores h ho
  exact ⟨step_params h, hrom, hhdr, (step_stage h).elim id (·.trans hst.symm)⟩

/-- Settles O27: every meaning ends in the Consumer's decode, which checks the table first. -/
theorem illFormedTableFaults : Obligations.IllFormedTableFaults := by
  unfold Obligations.IllFormedTableFaults
  intro i s hT
  have hfault := consumerDecode_faultsExactly s (responseOf s.params.optable i)
  rw [hT] at hfault
  rw [exec_eq]
  exact hfault

end Sys2Proof.Exceptions
end

section
/-! PROOFS. The state after reset (70_reset_and_hazards.md): it holds nothing, so it meets the invariant of the stores
and the soundness of the reported records. -/

namespace Sys2Proof.Machine

/-! ### What reset leaves in each field (R42, R230) -/

@[simp] theorem State.reset_rom : State.reset.rom = none := rfl

@[simp] theorem State.reset_hdr : State.reset.hdr = none := rfl

@[simp] theorem State.reset_st : State.reset.st = none := rfl

@[simp] theorem State.reset_out : State.reset.out = [] := rfl

/-! ### What every step keeps holds after reset -/

/-- With no header in the register, the invariant's clause about the header holds of nothing. -/
theorem State.inv_reset : State.reset.Inv := by
  refine ⟨State.reset_st, Memory.wf_reset, ?_⟩
  intro h hh
  rw [State.reset_hdr] at hh
  cases hh

/-- No response was given, so no record was reported. -/
theorem State.recordsSound_reset : State.reset.RecordsSound := by
  intro r hr
  rw [State.reset_out] at hr
  cases hr

end Sys2Proof.Machine

namespace Sys2Proof.Reset

open Sys2Proof.Machine

/-- Settles O41: the two stores and the stage register are empty by the definition of reset, and over empty ones each
clause of the invariant and of the soundness of records speaks of no value. -/
theorem resetIsEmptyAndMeetsTheInvariant : Obligations.ResetIsEmptyAndMeetsTheInvariant := by
  unfold Obligations.ResetIsEmptyAndMeetsTheInvariant
  exact ⟨State.reset_rom, State.reset_hdr, State.reset_st, State.inv_reset, State.recordsSound_reset⟩

end Sys2Proof.Reset
end

section
/-! PROOFS. Longer windows and the spec's vectors (95_test_vectors.md section 5): bytes behind a decoded instruction
change no read that succeeded, and the vectors' words are their instructions' forms. -/

namespace Sys2Proof

/-! ### A read that succeeds does not depend on what follows -/

theorem byteAt_append_of_ok {w : List Byte} {i : Nat} {b : Byte} (rest : List Byte) (h : byteAt w i = .ok b) :
    byteAt (w ++ rest) i = .ok b := by
  rw [byteAt_eq_ok_iff] at h ⊢
  rw [List.getElem?_append_left (List.getElem?_eq_some_iff.1 h).1, h]

theorem dispAt_append_of_ok {w : List Byte} {i : Nat} {d : Int} (rest : List Byte) (h : dispAt w i = .ok d) :
    dispAt (w ++ rest) i = .ok d := by
  obtain ⟨b, hb, hd⟩ := dispAt_eq_ok_iff.1 h
  have hlonger := byteAt_append_of_ok rest (byteAt_eq_ok_iff.2 hb)
  exact dispAt_eq_ok_iff.2 ⟨b, byteAt_eq_ok_iff.1 hlonger, hd⟩

theorem immAt_append_of_ok {w : List Byte} {pos : Nat} {k : Fin 3} {imm : Imm} (rest : List Byte)
    (h : immAt w pos k = .ok imm) : immAt (w ++ rest) pos k = .ok imm := by
  by_cases hlen : w.length < pos + k.val
  · rw [immAt_short hlen] at h
    cases h
  · rw [← h, immAt_ok (Nat.le_of_not_lt hlen), immAt_ok (by rw [List.length_append]; omega),
      List.drop_append_of_le_length (by omega), List.take_append_of_le_length (by rw [List.length_drop]; omega)]

/-! ### A transition that does not fail does not depend on what follows -/

/-- A stage that reads `x` and then goes on by `k` goes on alike over a read `y` that succeeds wherever `x` does. -/
theorem Stage.orFail_eq_or_failed {α : Type} {x y : Except DecodeError α} (k : α → Stage)
    (h : ∀ a, x = .ok a → y = .ok a) : orFail y k = orFail x k ∨ ∃ e, orFail x k = .failed e := by
  cases x with
  | ok a => exact .inl (by rw [h a rfl])
  | error e => exact .inr ⟨e, rfl⟩

/-- Each stage reads the window once at most (R162). -/
theorem Stage.next_append_eq_or_failed (T : OpTable) (w rest : List Byte) (st : Stage) :
    st.next T (w ++ rest) = st.next T w ∨ ∃ e, st.next T w = .failed e := by
  cases st with
  | start => exact orFail_eq_or_failed _ fun _ => byteAt_append_of_ok rest
  | prefix2 p => exact orFail_eq_or_failed _ fun _ => byteAt_append_of_ok rest
  | opcode ctx pos d => exact orFail_eq_or_failed _ fun _ => byteAt_append_of_ok rest
  | disp ctx pos op => exact orFail_eq_or_failed _ fun _ => dispAt_append_of_ok rest
  | imm ctx pos ob e d => exact orFail_eq_or_failed _ fun _ => immAt_append_of_ok rest
  | done r => exact .inl rfl
  | failed e => exact .inl rfl

/-- A run that ends in a record never failed, so a longer window takes it through the same stages. -/
theorem Stage.run_append_of_done {T : OpTable} {w : List Byte} (rest : List Byte) {k : Nat} {st : Stage}
    {r : DecodedInstruction} (h : run T w k st = .done r) : run T (w ++ rest) k st = .done r := by
  induction k generalizing st with
  | zero => exact h
  | succ k ih =>
    rw [run] at h ⊢
    rcases next_append_eq_or_failed T w rest st with hsame | ⟨e, hfailed⟩
    · rw [hsame]
      exact ih h
    · rw [hfailed, run_failed] at h
      cases h

/-- A stage answers a record only where it is done with it. -/
theorem Stage.eq_done_of_response {w : List Byte} {st : Stage} {r : DecodedInstruction} (h : st.response w = .ok r) :
    st = .done r := by
  cases st with
  | done r' => cases h; rfl
  | _ => cases h

/-! ### What the vectors' windows spell -/

/-- Where the opcode byte's entry is index-relative, `DD` or `FD` selects F-IDXD (R164, R175). -/
theorem decodeWindow_idxD {T : OpTable} (p : IdxPrefix) {op : Byte} {e : Entry} (hop : isPrefixByte op = false)
    (he : T.lookup .idx op = some e) (hx : e.idxrel = true) (w : List Byte) :
    decodeWindow T (p.byte :: op :: w) = formIdxD T p (p.byte :: op :: w) := by
  rw [decodeWindow_idx T p hop, entryFor_some (p.table_ctx.symm ▸ he), ok_bind, if_pos hx]

/-- `DD CB` and `FD CB` over their operands in place, under any OPTABLE whose entry has no immediate (R176). -/
theorem decodeWindow_idxCb_append {T : OpTable} (p : IdxPrefix) {op : Byte} {e : Entry} (d : Byte)
    (rest : List Byte) (he : T.lookup .idxcb op = some e) (hk : e.imm.val = 0) :
    decodeWindow T (p.byte :: 0xCB :: d :: op :: rest) = .ok (recordOf p.ctxCB op e (some d) .none) := by
  have hd : dispAt (p.byte :: 0xCB :: d :: op :: rest) 2 = .ok (sext8 d) := dispAt_eq_ok_iff.2 ⟨d, rfl, rfl⟩
  have hform := opcodeForm_append (imm := .none) (some (sext8 d)) [p.byte, 0xCB, d] rest (p.table_ctxCB.symm ▸ he) hk
  rw [decodeWindow_idxCb_bind, hd, ok_bind]
  refine hform.trans ?_
  cases p <;> simp [recordOf, hk, ImmBytes.width, Ctx.prefixCount, IdxPrefix.ctxCB]

/-- A window of `DD` or `FD` and an illegal second byte spells the row UNKNOWN_PREFIX (log 11). -/
theorem decode_badPrefix (T : OpTable) (p : IdxPrefix) {q : Byte} (hq : isBadSecondPrefix q = true)
    (rest : List Byte) : decode T (p.byte :: q :: rest) = .ok (.unknownPrefix p q) :=
  decode_of_badPrefix p (decodeWindow_badPrefix T p hq rest)

end Sys2Proof

namespace Sys2Proof.Vectors

open Sys2Proof.Machine

/-- Settles O9: the run that ended in the record takes the same transitions over the longer window. -/
theorem longerWindowKeepsTheRecord : Obligations.LongerWindowKeepsTheRecord := by
  unfold Obligations.LongerWindowKeepsTheRecord
  intro T w rest r h
  have hdone := Stage.run_append_of_done rest (Stage.eq_done_of_response h)
  rw [decodeWindow, hdone]
  rfl

/-- Settles O4: each vector's word is its form's operands in place, so the form gives the record of its instruction. -/
theorem specWordsDecode : Obligations.SpecWordsDecode := by
  unfold Obligations.SpecWordsDecode
  intro T n
  refine ⟨fun he => ?main, fun he => ?ed, fun he => ?ddIdx, fun he => ?ddcb, ?ddPrefix, ?fdPrefix⟩
  case main =>
    have hform := formMain_append (imm := .one 0x7F) rfl [] he
    exact decode_of_record ((decodeWindow_main T rfl _).trans hform)
  case ed =>
    have hform := formEd_append (imm := .two 0x00 0xC0) rfl [] he
    exact decode_of_record ((decodeWindow_ed T _).trans hform)
  case ddIdx =>
    have hform := formIdxD_append (p := .dd) (imm := .one 0x7F) 0xFE [] he rfl
    exact decode_of_record ((decodeWindow_idxD .dd rfl he rfl _).trans hform)
  case ddcb =>
    exact decode_of_record (decodeWindow_idxCb_append .dd 0xFF [] he rfl)
  case ddPrefix => exact decode_badPrefix T .dd rfl _
  case fdPrefix => exact decode_badPrefix T .fd rfl _

end Sys2Proof.Vectors
end
